-- ==== Sys2Proof/Word.lean ====
section
/-! DEFINITION. The word types of the block (00_scope.md R11): all unsigned. -/

namespace Sys2Proof

/-- `byte`, also `u8` (R11). -/
abbrev Byte := BitVec 8

/-- `u16` (R11). -/
abbrev Half := BitVec 16

/-- `u32` (R11). -/
abbrev Word := BitVec 32

end Sys2Proof
end

