-- ==== Sys2Proof/Config.lean ====
section
/-! DEFINITION. The identity of the block (00_scope.md R2), protocol constants (R9) and the configuration of an instance (R8). -/

namespace Sys2Proof

namespace Config

/-- `MARKER` (R9, D2). -/
def marker : Byte := 0xAA#8

/-- `ESC` (R9, D2). -/
def esc : Byte := 0x1B#8

/-- `LEN_PREAMBLE` (R9). -/
def lenPreamble : Nat := 4

/-- `LEN_HEADER` (R9). -/
def lenHeader : Nat := 5

/-- `LEN_CRC` (R9). -/
def lenCrc : Nat := 4

/-- `POLY`, the right-shifting form (R9, R91). -/
def poly : Word := 0xEDB88320#32

/-- `CRC_INIT` (R9, R93). -/
def crcInit : Word := 0#32

/-- `MIN_FRAME` (R9): the least number of raw bytes of a frame. -/
def minFrame : Nat := lenPreamble + lenHeader + lenCrc

/-- The recommended value of `PREAMBLE` (R9, 93_implementation_defined.md G1). PRESUMED, unsafe: no
source gives the value; a statement about this one value writes it out (log 3). -/
def preambleRecommended : Word := 0xAA55AA55#32

end Config

/-- The identity a model carries (R2, 92_eei_decisions.md D20): the block has no ISA string, part number or vendor. -/
structure Identity where
  name : String
  origin : String
  edition : String
  units : List String
deriving DecidableEq, Repr

/-- The identity of this block, word for word from R2. -/
def identity : Identity :=
  { name := "TinyLink framing core"
    origin := "basilfx/python-tinylink"
    edition := "reimplementation specification v7"
    units := ["U1 checksum engine (CRC32 generator + header XOR)", "U2 byte-stuffing codec",
      "U3 frame-synchronisation FSM", "TX frame encoder"] }

/-- `ENDIAN` (R8, R25): one byte order for every multi-byte field (R44). -/
inductive Endian where
  | little
  | big
deriving DecidableEq, Repr

/-- The 1-bit encoding of `CFG.ENDIAN` (R25, D3). -/
def Endian.code : Endian → BitVec 1
  | .little => 0#1
  | .big => 1#1

/-- The configuration of one instance (R8, R25 to R27), written at construction only (R28), with the
OPEN parameter `PREAMBLE` beside it (R9, D1). The field defaults are the spec's (R8); `endian` and
`preamble` have none. `maxLen` has 16 bits, so that `MAXLEN > 65535` cannot be written (X10). -/
structure Cfg where
  endian : Endian
  maxLen : Half := 65535#16
  lenient : Bool := false
  preamble : Word
deriving DecidableEq, Repr

/-- `CAP = MAXLEN + LEN_HEADER + LEN_CRC` (R9, R24). -/
def Cfg.cap (c : Cfg) : Nat := c.maxLen.toNat + Config.lenHeader + Config.lenCrc

/-- `CURSOR_W`, the width of `cursor` (R10, D24). -/
def Cfg.cursorWidth (c : Cfg) : Nat := Nat.clog 2 (c.cap + 1)

/-- The constraint on the OPEN parameter: `PREAMBLE[31:24] = MARKER` (R9, D1). -/
abbrev Cfg.legal (c : Cfg) : Prop := c.preamble.extractLsb' 24 8 = Config.marker

end Sys2Proof
end

