-- ==== Sys2Proof/Syntax.lean ====
section
/-! DEFINITION. The rows of spec/opcode_table.json, one constructor each, and the transactions that carry them. -/

namespace Sys2Proof

/-- One constructor per row of the opcode table. A request is issued by the host (30_encoding.md R73);
a symbol is what one raw byte, or four, is to the receiver (R69, R70) or from the transmitter
(41_bytestuff.md R106); a field is one part of a frame (R60 to R67); a result or status is what the
block gives back (R74). Multi-byte operands of a symbol or field are the WIRE IMAGE, first byte in the
most significant bits ("first byte leftmost"). -/
inductive Instr where
  /-- `NOP` (R78). -/
  | nop
  /-- `FEED d` (R121). -/
  | feed (d : Byte)
  /-- `ENCODE flags, P` (R151). -/
  | encode (flags : Half) (payload : List Byte)
  /-- `HCK b0, b1, b2, b3` (R90). -/
  | hck (b0 b1 b2 b3 : Byte)
  /-- `CRC_UPD crc, c` (R92). -/
  | crcUpd (crc : Word) (c : Byte)
  /-- `CRC32 s` (R93). -/
  | crc32 (s : List Byte)
  /-- `ESC_ENC b` (R106). -/
  | escEnc (b : Byte)
  /-- `ESCAPE s` (R107). -/
  | escape (s : List Byte)
  /-- `RESERVED_OP`: operation codes `1rrr` (R75 item 8). -/
  | reservedOp (r : BitVec 3)
  /-- `RAW d` (R69, R122). -/
  | raw (d : Byte)
  /-- `PREAMBLE p`: four consecutive raw bytes in the seeking stage (R69, R123). -/
  | preamble (p : Word)
  /-- `PREAMBLE_REC_LITTLE`: the four raw bytes `55 AA 55 AA` (R61, R123). -/
  | preambleRecLittle
  /-- `PREAMBLE_REC_BIG`: the four raw bytes `AA 55 AA 55` (R61, R123). -/
  | preambleRecBig
  /-- `ESCAPED d` (R70, R109). -/
  | escaped (d : Byte)
  /-- `ESCMARK` (R70, R109). -/
  | escmark
  /-- `LITERAL d` (R70, R109). -/
  | literal (d : Byte)
  /-- `TX_PLAIN b` (R106). -/
  | txPlain (b : Byte)
  /-- `TX_ESC_MARKER`: the pair `1B AA` (R106). -/
  | txEscMarker
  /-- `TX_ESC_ESC`: the pair `1B 1B` (R106). -/
  | txEscEsc
  /-- `FIELD_PREAMBLE p`, `p` the four raw bytes (R61). -/
  | fieldPreamble (p : Word)
  /-- `FIELD_FLAGS f`, `f` the two content bytes (R62). -/
  | fieldFlags (f : Half)
  /-- `FIELD_LENGTH n`, `n` the two content bytes (R63). -/
  | fieldLength (n : Half)
  /-- `FIELD_HCK h` (R64). -/
  | fieldHck (h : Byte)
  /-- `FIELD_PAYLOAD_BYTE y` (R65). -/
  | fieldPayloadByte (y : Byte)
  /-- `FIELD_CRC32 c`, `c` the four content bytes (R66). -/
  | fieldCrc32 (c : Word)
  /-- `RES_NONE`: result code `00` (R74). -/
  | resNone
  /-- `RES_FRAME_VALID`: result code `01` with flags and payload (R74, R135). -/
  | resFrameValid (flags : Half) (payload : List Byte)
  /-- `RES_FRAME_DAMAGED`: result code `10` with flags and payload (R74, R136). -/
  | resFrameDamaged (flags : Half) (payload : List Byte)
  /-- `RES_RESERVED`: result code `11` (R74). -/
  | resReserved
  /-- `ST_OK`: status 0 and the byte sequence (R74, R151). -/
  | stOk (s : List Byte)
  /-- `ST_LENGTH_EXCEEDED`: status 1; `length` is the offending payload length (R14, R152). -/
  | stLengthExceeded (length : Word)
deriving DecidableEq, Repr

/-- The code space a transaction's bytes are read in: the "format" of the opcode table, split where the
table tells two rows of one format apart by the receiver's flag (`rxPending`, `rxReading`: R70) or by the
place in the frame (the `field` channels: R67). DESIGN CHOICE (log 6). -/
inductive Channel where
  /-- An operation request (R73). -/
  | request
  /-- Raw bytes at a receiver in `SEEKING_PREAMBLE`: one byte, or four read as one window (R69). -/
  | rxSeeking
  /-- A raw byte at a receiver in a reading stage with `unescaping = 1` (R70). -/
  | rxPending
  /-- A raw byte at a receiver in a reading stage with `unescaping = 0` (R70). -/
  | rxReading
  /-- The output of the transmitter's escaper (R106). -/
  | txSymbol
  /-- Wire offset 0 (R61). -/
  | fieldPreamble
  /-- Content bytes 0 and 1 (R62). -/
  | fieldFlags
  /-- Content bytes 2 and 3 (R63). -/
  | fieldLength
  /-- Content byte 4 (R64). -/
  | fieldHck
  /-- One payload byte (R65). -/
  | fieldPayload
  /-- The last four content bytes (R66). -/
  | fieldCrc
  /-- A result of `FEED` (R74). -/
  | feedResult
  /-- A status of `ENCODE` (R74). -/
  | encodeStatus
deriving DecidableEq, Repr

/-- One transaction: a code space and its bytes, first byte first. -/
structure Transaction where
  channel : Channel
  bytes : List Byte
deriving DecidableEq, Repr

/-- The channel of each row. -/
def Instr.channel : Instr → Channel
  | .nop => .request
  | .feed _ => .request
  | .encode _ _ => .request
  | .hck _ _ _ _ => .request
  | .crcUpd _ _ => .request
  | .crc32 _ => .request
  | .escEnc _ => .request
  | .escape _ => .request
  | .reservedOp _ => .request
  | .raw _ => .rxSeeking
  | .preamble _ => .rxSeeking
  | .preambleRecLittle => .rxSeeking
  | .preambleRecBig => .rxSeeking
  | .escaped _ => .rxPending
  | .escmark => .rxReading
  | .literal _ => .rxReading
  | .txPlain _ => .txSymbol
  | .txEscMarker => .txSymbol
  | .txEscEsc => .txSymbol
  | .fieldPreamble _ => .fieldPreamble
  | .fieldFlags _ => .fieldFlags
  | .fieldLength _ => .fieldLength
  | .fieldHck _ => .fieldHck
  | .fieldPayloadByte _ => .fieldPayload
  | .fieldCrc32 _ => .fieldCrc
  | .resNone => .feedResult
  | .resFrameValid _ _ => .feedResult
  | .resFrameDamaged _ _ => .feedResult
  | .resReserved => .feedResult
  | .stOk _ => .encodeStatus
  | .stLengthExceeded _ => .encodeStatus

end Sys2Proof
end

