-- ==== Sys2Proof/WellFormed.lean ====
section
/-! DEFINITION. Which terms of `Instr` are rows of the opcode table: the operand ranges the table gives
(93_implementation_defined.md X11). -/

namespace Sys2Proof

/-- The wire image `55 AA 55 AA` of row `PREAMBLE_REC_LITTLE` (R61). -/
def recLittleImage : Word := 0x55AA55AA#32

/-- The wire image `AA 55 AA 55` of row `PREAMBLE_REC_BIG` (R61). -/
def recBigImage : Word := 0xAA55AA55#32

/-- A term is well formed when its operands are in the range its row gives. The two recommended images
have rows of their own, so that row `PREAMBLE` is the other windows; a `LITERAL` is not `ESC` (R70); a
`TX_PLAIN` is not reserved (R106); a result's payload length fits `N : u16` (R74). -/
def Instr.wellFormed : Instr → Bool
  | .nop => true
  | .feed _ => true
  | .encode _ _ => true
  | .hck _ _ _ _ => true
  | .crcUpd _ _ => true
  | .crc32 _ => true
  | .escEnc _ => true
  | .escape _ => true
  | .reservedOp _ => true
  | .raw _ => true
  | .preamble p => p != recLittleImage && p != recBigImage
  | .preambleRecLittle => true
  | .preambleRecBig => true
  | .escaped _ => true
  | .escmark => true
  | .literal d => d != Config.esc
  | .txPlain b => b != Config.marker && b != Config.esc
  | .txEscMarker => true
  | .txEscEsc => true
  | .fieldPreamble _ => true
  | .fieldFlags _ => true
  | .fieldLength _ => true
  | .fieldHck _ => true
  | .fieldPayloadByte _ => true
  | .fieldCrc32 _ => true
  | .resNone => true
  | .resFrameValid _ payload => decide (payload.length < 65536)
  | .resFrameDamaged _ payload => decide (payload.length < 65536)
  | .resReserved => true
  | .stOk _ => true
  | .stLengthExceeded _ => true

end Sys2Proof
end

