-- ==== Sys2Proof/Decode.lean ====
section
/-! DEFINITION. From bytes to a row of the opcode table and back. Request codes are R73's; result and status
codes are R74's; the places of a request's operands are the model's (DESIGN CHOICE, log 6). -/

namespace Sys2Proof

/-- The two bytes of a 16-bit wire image, first byte leftmost. -/
def halfBytes (v : Half) : List Byte := [v.extractLsb' 8 8, v.extractLsb' 0 8]

/-- The four bytes of a 32-bit wire image, first byte leftmost. -/
def wordBytes (v : Word) : List Byte :=
  [v.extractLsb' 24 8, v.extractLsb' 16 8, v.extractLsb' 8 8, v.extractLsb' 0 8]

/-- The 16-bit value whose first byte is `b1`. -/
def halfOf (b1 b0 : Byte) : Half := b1 ++ b0

/-- The 32-bit value whose first byte is `b3`. -/
def wordOf (b3 b2 b1 b0 : Byte) : Word := b3 ++ b2 ++ b1 ++ b0

/-- Why the bytes of a transaction are no row of the table. -/
inductive DecodeError where
  /-- The transaction has no byte to read a code from. -/
  | noCode
  /-- A code byte has a bit set above the code's own bits (R73: `op[3:0]`; R74: `res[1:0]`, `st`). -/
  | codeOutOfRange
  /-- The operand bytes of the code are too few or too many. -/
  | operandLength
  /-- Bytes the transmitter's escaper never puts out (R106). -/
  | notATxSymbol
  /-- Neither one raw byte nor, in the seeking stage, a window of four (R69, R70). -/
  | rawLength
deriving DecidableEq, Repr

/-- An operation request: `op[3:0]` in the low half of the first byte, then the operands in R73's order,
each first byte most significant; a byte sequence is the last operand and runs to the end. -/
def decodeRequest : List Byte → Except DecodeError Instr
  | [] => .error .noCode
  | code :: operands =>
    match code.toNat, operands with
    | 0, [] => .ok .nop
    | 1, [d] => .ok (.feed d)
    | 2, f1 :: f0 :: payload => .ok (.encode (halfOf f1 f0) payload)
    | 3, [b0, b1, b2, b3] => .ok (.hck b0 b1 b2 b3)
    | 4, [c3, c2, c1, c0, c] => .ok (.crcUpd (wordOf c3 c2 c1 c0) c)
    | 5, s => .ok (.crc32 s)
    | 6, [b] => .ok (.escEnc b)
    | 7, s => .ok (.escape s)
    | n, rest =>
      if n < 8 then .error .operandLength
      else if 16 ≤ n then .error .codeOutOfRange
      else if rest.isEmpty then .ok (.reservedOp (BitVec.ofNat 3 (n - 8)))
      else .error .operandLength

/-- Raw bytes in the seeking stage (R69): one byte is `RAW`; a window of four is `PREAMBLE`, under a row of
its own for the two recommended images. -/
def decodeSeeking : List Byte → Except DecodeError Instr
  | [d] => .ok (.raw d)
  | [b3, b2, b1, b0] =>
    let p := wordOf b3 b2 b1 b0
    if p = recLittleImage then .ok .preambleRecLittle
    else if p = recBigImage then .ok .preambleRecBig
    else .ok (.preamble p)
  | _ => .error .rawLength

/-- A raw byte in a reading stage with `unescaping = 1`: `ESCAPED`, any value (R70 (1)). -/
def decodePending : List Byte → Except DecodeError Instr
  | [d] => .ok (.escaped d)
  | _ => .error .rawLength

/-- A raw byte in a reading stage with `unescaping = 0`: `ESCMARK` or `LITERAL` (R70 (2), (3)). -/
def decodeReading : List Byte → Except DecodeError Instr
  | [d] => if d = Config.esc then .ok .escmark else .ok (.literal d)
  | _ => .error .rawLength

/-- What the transmitter's escaper puts out (R70, R106): an unreserved byte, `1B AA` or `1B 1B`. -/
def decodeTx : List Byte → Except DecodeError Instr
  | [b] => if b = Config.marker ∨ b = Config.esc then .error .notATxSymbol else .ok (.txPlain b)
  | [m, b] =>
    if m = Config.esc ∧ b = Config.marker then .ok .txEscMarker
    else if m = Config.esc ∧ b = Config.esc then .ok .txEscEsc
    else .error .notATxSymbol
  | _ => .error .notATxSymbol

/-- A 32-bit field. -/
def decodeField32 (mk : Word → Instr) : List Byte → Except DecodeError Instr
  | [b3, b2, b1, b0] => .ok (mk (wordOf b3 b2 b1 b0))
  | _ => .error .operandLength

/-- A 16-bit field. -/
def decodeField16 (mk : Half → Instr) : List Byte → Except DecodeError Instr
  | [b1, b0] => .ok (mk (halfOf b1 b0))
  | _ => .error .operandLength

/-- An 8-bit field. -/
def decodeField8 (mk : Byte → Instr) : List Byte → Except DecodeError Instr
  | [b] => .ok (mk b)
  | _ => .error .operandLength

/-- The flags, `N` and the `N` payload bytes of a frame result (R74). -/
def decodeFrame (mk : Half → List Byte → Instr) : List Byte → Except DecodeError Instr
  | f1 :: f0 :: n1 :: n0 :: payload =>
    if (halfOf n1 n0).toNat = payload.length then .ok (mk (halfOf f1 f0) payload)
    else .error .operandLength
  | _ => .error .operandLength

/-- A result of `FEED`: `res[1:0]`, then flags, `N` and payload for a frame (R74). -/
def decodeResult : List Byte → Except DecodeError Instr
  | [] => .error .noCode
  | code :: rest =>
    match code.toNat with
    | 0 => if rest.isEmpty then .ok .resNone else .error .operandLength
    | 1 => decodeFrame .resFrameValid rest
    | 2 => decodeFrame .resFrameDamaged rest
    | 3 => if rest.isEmpty then .ok .resReserved else .error .operandLength
    | _ => .error .codeOutOfRange

/-- A status of `ENCODE`: `st`, then the bytes, or the offending length (R74, R14). -/
def decodeStatus : List Byte → Except DecodeError Instr
  | [] => .error .noCode
  | code :: rest =>
    match code.toNat with
    | 0 => .ok (.stOk rest)
    | 1 => decodeField32 .stLengthExceeded rest
    | _ => .error .codeOutOfRange

/-- The decoder: total, rejecting by name. -/
def decode (t : Transaction) : Except DecodeError Instr :=
  match t.channel with
  | .request => decodeRequest t.bytes
  | .rxSeeking => decodeSeeking t.bytes
  | .rxPending => decodePending t.bytes
  | .rxReading => decodeReading t.bytes
  | .txSymbol => decodeTx t.bytes
  | .fieldPreamble => decodeField32 .fieldPreamble t.bytes
  | .fieldFlags => decodeField16 .fieldFlags t.bytes
  | .fieldLength => decodeField16 .fieldLength t.bytes
  | .fieldHck => decodeField8 .fieldHck t.bytes
  | .fieldPayload => decodeField8 .fieldPayloadByte t.bytes
  | .fieldCrc => decodeField32 .fieldCrc32 t.bytes
  | .feedResult => decodeResult t.bytes
  | .encodeStatus => decodeStatus t.bytes

/-- The operation code `op[3:0]` of a request (R73); the other rows have none. -/
def opCode : Instr → Option (BitVec 4)
  | .nop => some 0b0000#4
  | .feed _ => some 0b0001#4
  | .encode _ _ => some 0b0010#4
  | .hck _ _ _ _ => some 0b0011#4
  | .crcUpd _ _ => some 0b0100#4
  | .crc32 _ => some 0b0101#4
  | .escEnc _ => some 0b0110#4
  | .escape _ => some 0b0111#4
  | .reservedOp r => some (1#1 ++ r)
  | _ => none

/-- The bytes of a row, from the same tables. -/
def encodeBytes : Instr → List Byte
  | .nop => [0x00#8]
  | .feed d => [0x01#8, d]
  | .encode flags payload => 0x02#8 :: (halfBytes flags ++ payload)
  | .hck b0 b1 b2 b3 => [0x03#8, b0, b1, b2, b3]
  | .crcUpd crc c => 0x04#8 :: (wordBytes crc ++ [c])
  | .crc32 s => 0x05#8 :: s
  | .escEnc b => [0x06#8, b]
  | .escape s => 0x07#8 :: s
  | .reservedOp r => [0b00001#5 ++ r]
  | .raw d => [d]
  | .preamble p => wordBytes p
  | .preambleRecLittle => [0x55#8, 0xAA#8, 0x55#8, 0xAA#8]
  | .preambleRecBig => [0xAA#8, 0x55#8, 0xAA#8, 0x55#8]
  | .escaped d => [d]
  | .escmark => [0x1B#8]
  | .literal d => [d]
  | .txPlain b => [b]
  | .txEscMarker => [0x1B#8, 0xAA#8]
  | .txEscEsc => [0x1B#8, 0x1B#8]
  | .fieldPreamble p => wordBytes p
  | .fieldFlags f => halfBytes f
  | .fieldLength n => halfBytes n
  | .fieldHck h => [h]
  | .fieldPayloadByte y => [y]
  | .fieldCrc32 c => wordBytes c
  | .resNone => [0x00#8]
  | .resFrameValid flags payload =>
    0x01#8 :: (halfBytes flags ++ halfBytes (BitVec.ofNat 16 payload.length) ++ payload)
  | .resFrameDamaged flags payload =>
    0x02#8 :: (halfBytes flags ++ halfBytes (BitVec.ofNat 16 payload.length) ++ payload)
  | .resReserved => [0x03#8]
  | .stOk s => 0x00#8 :: s
  | .stLengthExceeded length => 0x01#8 :: wordBytes length

/-- The encoder: the transaction of a well-formed row. -/
def encode (i : Instr) : Transaction := { channel := i.channel, bytes := encodeBytes i }

/-! The host's question about one row of the table: only a word and its length, without a channel. -/

/-- The zero bytes of the operands that the table gives no bits (log 13): for a request code `op`. -/
def requestZeros (op : Nat) : List Byte :=
  match op with
  | 1 => [0#8]
  | 2 => [0#8, 0#8]
  | 3 => [0#8, 0#8, 0#8, 0#8]
  | 4 => [0#8, 0#8, 0#8, 0#8, 0#8]
  | 6 => [0#8]
  | _ => []

/-- The zero operands of a result or status code. -/
def codeZeros (code : Nat) : List Byte :=
  if code = 1 ∨ code = 2 then [0#8, 0#8, 0#8, 0#8] else []

/-- The transaction a bare table word stands for. A word of the table's own width (1, 2 or 4 bits) names its
code space. Rounded up to a byte, the code spaces overlap: below 16 it is read as a request, `1B` as
`ESCMARK`, any other byte as `RAW`; two bytes are an escape pair or else `FIELD_FLAGS`; four bytes are a
preamble window (DESIGN CHOICE, log 13). -/
def tableTransaction (nbits w : Nat) : Option Transaction :=
  let b : Byte := BitVec.ofNat 8 w
  match nbits with
  | 1 => some { channel := .encodeStatus, bytes := b :: codeZeros w }
  | 2 => some { channel := .feedResult, bytes := b :: codeZeros w }
  | 4 => some { channel := .request, bytes := b :: requestZeros w }
  | 8 =>
    if w < 16 then some { channel := .request, bytes := b :: requestZeros w }
    else if w = 0x1B then some { channel := .rxReading, bytes := [b] }
    else some { channel := .rxSeeking, bytes := [b] }
  | 16 =>
    if w = 0x1BAA ∨ w = 0x1B1B then
      some { channel := .txSymbol, bytes := halfBytes (BitVec.ofNat 16 w) }
    else some { channel := .fieldFlags, bytes := halfBytes (BitVec.ofNat 16 w) }
  | 32 => some { channel := .rxSeeking, bytes := wordBytes (BitVec.ofNat 32 w) }
  | _ => none

/-- The instruction the decoder reads from a bare table word, `none` where it refuses. -/
def decodeTableWord (nbits w : Nat) : Option Instr :=
  match tableTransaction nbits w with
  | none => none
  | some t =>
    match decode t with
    | .ok i => some i
    | .error _ => none

end Sys2Proof
end

