-- ==== Sys2Proof/Machine/State.lean ====
section
/-! DEFINITION. The state of one block instance (10_state.md R20) as plain data, and reset (70_reset_and_hazards.md R200). -/

namespace Sys2Proof.Machine

/-- The stage register's three legal values (R21); the code 3 cannot be written down (X8). -/
inductive Stage where
  | seekingPreamble
  | readingHeader
  | readingBody
deriving DecidableEq, Repr

/-- A received frame: `FRAME(flags, payload, damaged)` (30_encoding.md R74, 43_frame_encoder.md R155). An absent
payload is the empty one (D10). -/
structure Frame where
  flags : Half
  payload : List Byte
  damaged : Bool
deriving DecidableEq, Repr

/-- What an operation gives back (R73, R74). -/
inductive Result where
  /-- No operation has returned anything: after reset (10_state.md R33) and after `NOP` (R78). -/
  | nothing
  /-- The result of `FEED`: `NONE` or a frame. -/
  | feed (r : Option Frame)
  /-- `ENCODE`, status 0: `BYTES(s)`. -/
  | encoded (s : List Byte)
  /-- `ENCODE`, status 1: `LengthExceeded(length)`, no bytes (R152). -/
  | lengthExceeded (length : Nat)
  /-- An 8-bit value (`HCK`). -/
  | byte (v : Byte)
  /-- A 32-bit value (`CRC_UPD`, `CRC32`). -/
  | word (v : Word)
  /-- A byte sequence (`ESC_ENC`, `ESCAPE`, a symbol or field put on the wire). -/
  | bytes (s : List Byte)
deriving DecidableEq, Repr

/-- The event names of 42_framesync.md R138 and R139, `EV_HDR_BAD` in its two refinements. Trace names only: no
result depends on them (R139). -/
inductive Event where
  | evStore
  | evPreamble
  | evSlide
  | evEsc
  | evHdrOk
  | evHdrBadCk
  | evHdrBadLen
  | evFrameOk
  | evFrameDamaged
deriving DecidableEq, Repr

/-- `buf` as (index, byte) pairs in one canonical form (`Memory.wf`, Machine/Ops.lean). -/
abbrev Memory := List Host.Cell

/-- The whole state. `state`, `cursor`, `unescaping`, `buf` are the RX registers and buffer (R21 to R24), `cfg`
the configuration (R25 to R27) with the OPEN parameter `PREAMBLE` (R9, log 3). The last three are the model's own:
`result` holds what the last step returned (R33, log 4), `event` names the last feed's event (R139, log 12),
`input` holds the host's transactions not yet served (R73, log 5). -/
structure State where
  state : Stage
  cursor : Nat
  unescaping : Bool
  buf : Memory
  cfg : Cfg
  result : Result
  event : Option Event
  input : List Transaction
deriving DecidableEq, Repr

/-- Why the machine stops with a fault. The block itself has none (60_exceptions.md R175). -/
inductive Fault where
  /-- Raised by `FEED` and by the rows that stand for raw bytes where `cursor` is not below `CAP`, so that
  `buf[cursor]` does not exist (20_memory.md R41). No run reaches such a state (10_state.md R31 item 5). Safe: the
  model stops. -/
  | bufferBounds
deriving DecidableEq, Repr

/-- Why a transaction has no meaning. -/
inductive Refusal where
  /-- An arm of `exec` without a meaning yet; no arm answers it now. Safe. -/
  | notModelled (mnemonic : String)
  /-- `RESERVED_OP`: operation codes 1000 to 1111 are reserved and refused (R75 item 8, X9). Safe. -/
  | reservedOperation (r : BitVec 3)
  /-- `RES_RESERVED`: the result code 11 is never produced (R74, X9). Safe. -/
  | reservedResult
  /-- A receive symbol named in a state where the raw byte is another symbol (R69, R70). Safe: in that state the
  spec gives the row no effect. -/
  | notThisSymbol
  /-- An operand outside the range its row gives (X11): a reserved byte as `TX_PLAIN`, a preamble field that is not
  `PREAMBLE`, a length above `MAXLEN`, a damaged frame from a strict block. Safe. -/
  | operandOutOfRange
  /-- Raised by `step` where the bytes of a transaction are no row of the table. Safe. -/
  | undecodable (e : DecodeError)
deriving DecidableEq, Repr

/-- The reset event (R200): construction with a configuration, registers as in 10_state.md R33. `buf` is
unspecified there; it lists nothing here, so that every byte reads 0 (DESIGN CHOICE allowed by D9, unsafe, log 1). -/
def State.resetWith (c : Cfg) : State :=
  { state := .seekingPreamble
    cursor := 0
    unescaping := false
    buf := []
    cfg := c
    result := .nothing
    event := none
    input := [] }

/-- The configuration of `State.reset`: the spec's defaults `MAXLEN = 65535` and strict (R8); `LITTLE` is a DESIGN
CHOICE (no default exists, D3, log 2) and the preamble is the recommended one (PRESUMED, log 3). Both unsafe: every
statement is for all configurations. -/
def resetCfg : Cfg := { endian := .little, preamble := Config.preambleRecommended }

/-- The machine right after reset. -/
def State.reset : State := State.resetWith resetCfg

end Sys2Proof.Machine
end

