-- ==== Sys2Proof/Machine/Ops.lean ====
section
/-! DEFINITION. The named operations over the buffer and the registers. -/

namespace Sys2Proof.Machine

/-! ### The buffer -/

/-- What an index that is not listed reads as. The spec leaves the contents of `buf` after reset open
(10_state.md R33); D9 lets a model pick zeros. DESIGN CHOICE, unsafe (log 1). -/
def memDefault : Byte := 0#8

/-- `buf[a]` (00_scope.md R13). Reading has no side effect (R49). -/
def Memory.read : Memory → Nat → Byte
  | [], _ => memDefault
  | (k, v) :: m, a => if a = k then v else Memory.read m a

/-- Put a cell in its place among rising indices. -/
def Memory.insertCell (a : Nat) (b : Byte) : Memory → Memory
  | [] => [(a, b)]
  | (k, v) :: m => if a < k then (a, b) :: (k, v) :: m else (k, v) :: Memory.insertCell a b m

/-- `buf[a] <- b` (R13), keeping the canonical form: the value an unlisted index reads as is not listed. -/
def Memory.write (m : Memory) (a : Nat) (b : Byte) : Memory :=
  let rest := m.filter (fun c => c.1 != a)
  if b = memDefault then rest else Memory.insertCell a b rest

/-- `MemRead(a, n)` (R13). -/
def Memory.readN (m : Memory) (a n : Nat) : List Byte := (List.range n).map (fun i => m.read (a + i))

/-- `MemWrite(a, n, s)` with `n = len(s)` (R13). -/
def Memory.writeN (m : Memory) (a : Nat) : List Byte → Memory
  | [] => m
  | b :: s => Memory.writeN (m.write a b) (a + 1) s

/-- The canonical form: indices strictly rising, no cell that reads as an unlisted one. -/
abbrev Memory.wf (m : Memory) : Prop :=
  m.Pairwise (fun c d => c.1 < d.1) ∧ ∀ c ∈ m, c.2 ≠ memDefault

/-! ### The registers -/

/-- The bounds check of the one store of a feed, `buf[cursor] <- d` (20_memory.md R41 (a)). With it every access a
feed makes is in range (R41 (b) to (e)). -/
abbrev State.cursorInBounds (s : State) : Prop := s.cursor < s.cfg.cap

/-- `buf[cursor] <- d`. -/
def State.storeAtCursor (s : State) (d : Byte) : State := { s with buf := s.buf.write s.cursor d }

/-- `cursor <- cursor + 1`. -/
def State.advance (s : State) : State := { s with cursor := s.cursor + 1 }

/-- The preamble-match transition (42_framesync.md R124): `buf` is left as it is (R51). -/
def State.startHeader (s : State) : State := { s with state := .readingHeader, cursor := 0 }

/-- The header-accept transition (R130): `cursor` stays. -/
def State.startBody (s : State) : State := { s with state := .readingBody }

/-- What happens when a receive-side condition is detected or a frame completes (60_exceptions.md R184, R131, R137):
exactly two registers change, nothing is saved, there is no handler and no return (R186). -/
def State.resync (s : State) : State := { s with state := .seekingPreamble, cursor := 0 }

/-- The buffer-full action (R126): the last four bytes go to the front. -/
def State.slide (s : State) : State :=
  { s with buf := s.buf.writeN 0 (s.buf.readN (s.cfg.cap - 4) 4), cursor := 4 }

/-- Hand a result to the host; it lasts until the next step (45_host_link.md R171, log 4). -/
def State.respond (s : State) (r : Result) : State := { s with result := r }

/-- Name the event of a feed (R139); nothing reads it. -/
def State.note (s : State) (e : Event) : State := { s with event := some e }

/-! ### Codes (92_eei_decisions.md D13, 30_encoding.md R74, 60_exceptions.md R180) -/

/-- The 2-bit code of the stage (R21). -/
def Stage.code : Stage → BitVec 2
  | .seekingPreamble => 0#2
  | .readingHeader => 1#2
  | .readingBody => 2#2

/-- `res[1:0]` of a feed's result (R74). -/
def resCode : Option Frame → BitVec 2
  | none => 0b00#2
  | some f => if f.damaged then 0b10#2 else 0b01#2

/-- `st` of an `ENCODE` result (R74, R180); other results have none. -/
def stCode : Result → Option (BitVec 1)
  | .encoded _ => some 0#1
  | .lengthExceeded _ => some 1#1
  | _ => none

end Sys2Proof.Machine
end

