-- ==== Sys2Proof/Machine/Operands.lean ====
section
/-! DEFINITION. Byte order (20_memory.md R44 to R46) and the fields of a frame in the buffer (30_encoding.md R68). -/

namespace Sys2Proof.Machine

/-- `pack16(v)` (R45). -/
def pack16 (e : Endian) (v : Half) : List Byte :=
  match e with
  | .little => [v.extractLsb' 0 8, v.extractLsb' 8 8]
  | .big => [v.extractLsb' 8 8, v.extractLsb' 0 8]

/-- `unpack16([b0, b1])` (R45). -/
def unpack16 (e : Endian) (b0 b1 : Byte) : Half :=
  match e with
  | .little => b1 ++ b0
  | .big => b0 ++ b1

/-- `pack32(v)` (R46). -/
def pack32 (e : Endian) (v : Word) : List Byte :=
  match e with
  | .little => [v.extractLsb' 0 8, v.extractLsb' 8 8, v.extractLsb' 16 8, v.extractLsb' 24 8]
  | .big => [v.extractLsb' 24 8, v.extractLsb' 16 8, v.extractLsb' 8 8, v.extractLsb' 0 8]

/-- `unpack32([b0, b1, b2, b3])` (R46). -/
def unpack32 (e : Endian) (b0 b1 b2 b3 : Byte) : Word :=
  match e with
  | .little => b3 ++ b2 ++ b1 ++ b0
  | .big => b0 ++ b1 ++ b2 ++ b3

/-- `rd16(a)` (R45). -/
def State.rd16 (s : State) (a : Nat) : Half := unpack16 s.cfg.endian (s.buf.read a) (s.buf.read (a + 1))

/-- `rd32(a)` (R46); no alignment rule (R48). -/
def State.rd32 (s : State) (a : Nat) : Word :=
  unpack32 s.cfg.endian (s.buf.read a) (s.buf.read (a + 1)) (s.buf.read (a + 2)) (s.buf.read (a + 3))

/-- `flags = rd16(0)` (R68). -/
def State.rxFlags (s : State) : Half := s.rd16 0

/-- `N = rd16(2)`, unsigned (R68). -/
def State.rxLength (s : State) : Nat := (s.rd16 2).toNat

/-- `P = MemRead(5, N)` (R68): a copy, so that later feeds do not alter it (10_state.md R30). -/
def State.rxPayload (s : State) : List Byte := s.buf.readN Config.lenHeader s.rxLength

/-- `crc_rx = rd32(5 + N)` (R68). -/
def State.rxCrc (s : State) : Word := s.rd32 (Config.lenHeader + s.rxLength)

/-- The value a 16-bit wire image stands for, first byte leftmost (R45). -/
def ofImage16 (e : Endian) (image : Half) : Half :=
  unpack16 e (image.extractLsb' 8 8) (image.extractLsb' 0 8)

/-- The value a 32-bit wire image stands for (R46). -/
def ofImage32 (e : Endian) (image : Word) : Word :=
  unpack32 e (image.extractLsb' 24 8) (image.extractLsb' 16 8) (image.extractLsb' 8 8) (image.extractLsb' 0 8)

end Sys2Proof.Machine
end

