-- ==== Sys2Proof/Machine/Flags.lean ====
section
/-! DEFINITION. The two one-bit conditions of the block (10_state.md R35): the flag `unescaping` (R23) and the damage
marker of a result. -/

namespace Sys2Proof.Machine

/-- Set `unescaping`: an escape marker was seen (41_bytestuff.md R109). -/
def State.setUnescaping (s : State) : State := { s with unescaping := true }

/-- Clear `unescaping`: the byte after the marker was taken (R109). -/
def State.clearUnescaping (s : State) : State := { s with unescaping := false }

/-- The result of a completed body (42_framesync.md R135, R136): a frame with `damaged = 0` when the CRC32 matched,
with `damaged = 1` when it did not and the block is lenient, else `NONE`. -/
def bodyResult (ok lenient : Bool) (flags : Half) (payload : List Byte) : Option Frame :=
  if ok then some { flags := flags, payload := payload, damaged := false }
  else if lenient then some { flags := flags, payload := payload, damaged := true }
  else none

/-- In a reading stage (R69, R70). -/
abbrev State.reading (s : State) : Prop := s.state = .readingHeader ∨ s.state = .readingBody

end Sys2Proof.Machine
end

