-- ==== Sys2Proof/Machine/Checksum.lean ====
section
/-! DEFINITION. Unit U1, the checksum engine (40_checksum.md): pure functions, no state (10_state.md R29). -/

namespace Sys2Proof.Machine

/-- `HCK(b0, b1, b2, b3)` (R90). -/
def headerChecksum (b0 b1 b2 b3 : Byte) : Byte := b0 ^^^ b1 ^^^ b2 ^^^ b3

/-- One iteration of `CRC_F` (R91): the low bit is tested before the shift. -/
def crcShift (v : Word) : Word := if v.getLsbD 0 then (v >>> 1) ^^^ Config.poly else v >>> 1

/-- `n` iterations. -/
def crcShifts : Nat → Word → Word
  | 0, v => v
  | n + 1, v => crcShifts n (crcShift v)

/-- `CRC_F(crc, c)` (R91). -/
def crcF (crc : Word) (c : Byte) : Word := crcShifts 8 ((crc ^^^ c.setWidth 32) &&& 0x000000FF#32)

/-- `CRC_UPD(crc, c)` (R92). -/
def crcUpdate (crc : Word) (c : Byte) : Word := ((crc >>> 8) &&& 0x00FFFFFF#32) ^^^ crcF crc c

/-- `CRC32(s)` (R93): initial value 0, no final complement (R97). -/
def frameChecksum (s : List Byte) : Word := s.foldl crcUpdate Config.crcInit

/-- One step of the bit-serial register (R94). -/
def crcBit (crc : Word) (bit : Bool) : Word :=
  (crc >>> 1) ^^^ (if crc.getLsbD 0 ^^ bit then Config.poly else 0#32)

/-- `CRC_UPD_BITS(crc, c)` (R94): bit 0 of `c` first (20_memory.md R47). -/
def crcUpdateBits (crc : Word) (c : Byte) : Word :=
  (List.range 8).foldl (fun acc i => crcBit acc (c.getLsbD i)) crc

/-- `HCK` (R90). -/
def execHck (b0 b1 b2 b3 : Byte) (s : State) : Host.Outcome State Fault Refusal :=
  .next (s.respond (.byte (headerChecksum b0 b1 b2 b3)))

/-- `CRC_UPD` (R92): the host carries the running value (R98). -/
def execCrcUpd (crc : Word) (c : Byte) (s : State) : Host.Outcome State Fault Refusal :=
  .next (s.respond (.word (crcUpdate crc c)))

/-- `CRC32` (R93). -/
def execCrc32 (bytes : List Byte) (s : State) : Host.Outcome State Fault Refusal :=
  .next (s.respond (.word (frameChecksum bytes)))

end Sys2Proof.Machine
end

