-- ==== Sys2Proof/Machine/ByteStuff.lean ====
section
/-! DEFINITION. Unit U2, the byte-stuffing codec (41_bytestuff.md). -/

namespace Sys2Proof.Machine

/-- `reserved(b)` (R105). -/
def reserved (b : Byte) : Bool := b == Config.marker || b == Config.esc

/-- `ESC_ENC(b)` (R106). -/
def escapeByte (b : Byte) : List Byte := if reserved b then [Config.esc, b] else [b]

/-- `ESCAPE(s)` (R107). -/
def escapeBytes (s : List Byte) : List Byte := s.flatMap escapeByte

/-- `e(s)`: the number of reserved bytes (R108). -/
def reservedCount (s : List Byte) : Nat := s.countP reserved

/-- `UNESC(d)` (R109), with whether a logical byte was completed. The flag is tested first; a marker is stored at
`buf[cursor]` without advancing (D6). -/
def unescape (d : Byte) (s : State) : State × Bool :=
  if s.unescaping then ((s.storeAtCursor d).advance.clearUnescaping, true)
  else if d = Config.esc then ((s.storeAtCursor d).setUnescaping, false)
  else ((s.storeAtCursor d).advance, true)

/-- `UNESCAPE(u, r)` (R112): the logical bytes of a raw sequence and the final flag. -/
def unescapeBytes : Bool → List Byte → List Byte × Bool
  | u, [] => ([], u)
  | true, d :: r => (d :: (unescapeBytes false r).1, (unescapeBytes false r).2)
  | false, d :: r =>
    if d = Config.esc then unescapeBytes true r
    else (d :: (unescapeBytes false r).1, (unescapeBytes false r).2)

/-- `ESC_ENC` (R106). -/
def execEscEnc (b : Byte) (s : State) : Host.Outcome State Fault Refusal :=
  .next (s.respond (.bytes (escapeByte b)))

/-- `ESCAPE` (R107). -/
def execEscape (bytes : List Byte) (s : State) : Host.Outcome State Fault Refusal :=
  .next (s.respond (.bytes (escapeBytes bytes)))

/-- `TX_PLAIN b`: the escaper's output for an unreserved byte is the byte itself (R106). A reserved byte is never
such an output. -/
def execTxPlain (b : Byte) (s : State) : Host.Outcome State Fault Refusal :=
  if reserved b then .refused .operandOutOfRange else .next (s.respond (.bytes [b]))

/-- `TX_ESC_MARKER`: the output for `MARKER` is `1B AA` (R106). -/
def execTxEscMarker (s : State) : Host.Outcome State Fault Refusal :=
  .next (s.respond (.bytes [Config.esc, Config.marker]))

/-- `TX_ESC_ESC`: the output for `ESC` is `1B 1B` (R106). -/
def execTxEscEsc (s : State) : Host.Outcome State Fault Refusal :=
  .next (s.respond (.bytes [Config.esc, Config.esc]))

end Sys2Proof.Machine
end

