-- ==== Sys2Proof/Machine/FrameSync.lean ====
section
/-! DEFINITION. Unit U3, the frame-synchronisation FSM (42_framesync.md): `FEED` and the symbols a raw byte is. -/

namespace Sys2Proof.Machine

/-- `PRE_MATCH()` (R123): the last four stored raw bytes read as `PREAMBLE`. -/
def preambleMatch (s : State) : Bool := s.rd32 (s.cursor - 4) == s.cfg.preamble

/-- `SEEK_STEP(d)` (R122): the match test comes before the full test (R125). -/
def seekStep (d : Byte) (s : State) : State :=
  let t := (s.storeAtCursor d).advance
  if 4 ≤ t.cursor ∧ preambleMatch t = true then (t.startHeader.note .evPreamble).respond (.feed none)
  else if t.cursor = t.cfg.cap then (t.slide.note .evSlide).respond (.feed none)
  else (t.note .evStore).respond (.feed none)

/-- The checksum half of `HDR_CHECK` (R129): `buf[4] = HCK(buf[0..4))`. -/
def headerChecksumOk (s : State) : Bool :=
  s.buf.read 4 == headerChecksum (s.buf.read 0) (s.buf.read 1) (s.buf.read 2) (s.buf.read 3)

/-- The length half of `HDR_CHECK` (R129): `N <= MAXLEN`, unsigned. -/
def headerLengthOk (s : State) : Bool := decide (s.rxLength ≤ s.cfg.maxLen.toNat)

/-- The header completion check (R128, R130, R131); for the event name the checksum is tested first (R139). -/
def headerDone (s : State) : State :=
  if headerChecksumOk s then
    if headerLengthOk s then s.startBody.note .evHdrOk
    else s.resync.note .evHdrBadLen
  else s.resync.note .evHdrBadCk

/-- `HEADER_STEP(d)` (R128). -/
def headerStep (d : Byte) (s : State) : State :=
  match unescape d s with
  | (t, false) => (t.note .evEsc).respond (.feed none)
  | (t, true) =>
    if t.cursor = Config.lenHeader then (headerDone t).respond (.feed none)
    else (t.note .evStore).respond (.feed none)

/-- `BODY_CHECK` (R134): the checksum over header and payload equals the received one. -/
def bodyCheck (s : State) : Bool :=
  frameChecksum (s.buf.readN 0 (Config.lenHeader + s.rxLength)) == s.rxCrc

/-- A completed body (R132, R135 to R137): the result, and back to seeking whatever the check says. -/
def bodyDone (s : State) : State :=
  (s.resync.note (if bodyCheck s then .evFrameOk else .evFrameDamaged)).respond
    (.feed (bodyResult (bodyCheck s) s.cfg.lenient s.rxFlags s.rxPayload))

/-- `BODY_STEP(d)` (R132, R133). -/
def bodyStep (d : Byte) (s : State) : State :=
  match unescape d s with
  | (t, false) => (t.note .evEsc).respond (.feed none)
  | (t, true) =>
    if t.cursor = Config.lenHeader + t.rxLength + Config.lenCrc then bodyDone t
    else (t.note .evStore).respond (.feed none)

/-- `FEED(d)` on a state whose `cursor` is in the buffer: the stage at the start of the feed decides (R121). -/
def feedStep (d : Byte) (s : State) : State :=
  match s.state with
  | .seekingPreamble => seekStep d s
  | .readingHeader => headerStep d s
  | .readingBody => bodyStep d s

/-- One raw byte at the receiver: the bounds check (20_memory.md R41), then the feed. -/
def feedByte (d : Byte) (s : State) : Host.Outcome State Fault Refusal :=
  if s.cursorInBounds then .next (feedStep d s) else .fault .bufferBounds

/-- `FEEDSEQ` (30_encoding.md R77): the feeds in order, with the list of results that are not `NONE`. -/
def feedSeq : List Byte → State → Host.Outcome (State × List Frame) Fault Refusal
  | [], s => .next (s, [])
  | d :: ds, s =>
    match feedByte d s with
    | .fault f => .fault f
    | .refused r => .refused r
    | .next t =>
      match feedSeq ds t with
      | .fault f => .fault f
      | .refused r => .refused r
      | .next (u, frames) =>
        match t.result with
        | .feed (some f) => .next (u, f :: frames)
        | _ => .next (u, frames)

/-- The raw bytes of one symbol, fed in order. -/
def feedSymbol (ds : List Byte) (s : State) : Host.Outcome State Fault Refusal :=
  match feedSeq ds s with
  | .fault f => .fault f
  | .refused r => .refused r
  | .next (t, _) => .next t

/-- `DECODE s = RESET; FEEDSEQ s` (R77). -/
def decodeStream (c : Cfg) (s : List Byte) : Host.Outcome (State × List Frame) Fault Refusal :=
  feedSeq s (State.resetWith c)

/-- Which symbol the raw byte `d` is to the receiver (R69, R70, in R70's order). -/
def symbolOf (s : State) (d : Byte) : Instr :=
  match s.state with
  | .seekingPreamble => .raw d
  | _ => if s.unescaping then .escaped d else if d = Config.esc then .escmark else .literal d

/-- `FEED d` (R120, R121). -/
def execFeed (d : Byte) (s : State) : Host.Outcome State Fault Refusal := feedByte d s

/-- `RAW d`: a raw byte in the seeking stage, stored as it is (R69, R122). -/
def execRaw (d : Byte) (s : State) : Host.Outcome State Fault Refusal :=
  if s.state = .seekingPreamble then feedByte d s else .refused .notThisSymbol

/-- `PREAMBLE p`: four consecutive raw bytes in the seeking stage; they match when they read as `PREAMBLE` (R69, R123,
log 8). -/
def execPreamble (p : Word) (s : State) : Host.Outcome State Fault Refusal :=
  if s.state = .seekingPreamble then feedSymbol (wordBytes p) s else .refused .notThisSymbol

/-- `PREAMBLE_REC_LITTLE`: the window `55 AA 55 AA` (R61, R123). -/
def execPreambleRecLittle (s : State) : Host.Outcome State Fault Refusal :=
  if s.state = .seekingPreamble then feedSymbol (wordBytes recLittleImage) s else .refused .notThisSymbol

/-- `PREAMBLE_REC_BIG`: the window `AA 55 AA 55` (R61, R123). -/
def execPreambleRecBig (s : State) : Host.Outcome State Fault Refusal :=
  if s.state = .seekingPreamble then feedSymbol (wordBytes recBigImage) s else .refused .notThisSymbol

/-- `ESCAPED d`: the byte after an escape marker, whatever it is (R70 (1), R109, R110). -/
def execEscaped (d : Byte) (s : State) : Host.Outcome State Fault Refusal :=
  if s.reading ∧ s.unescaping = true then feedByte d s else .refused .notThisSymbol

/-- `ESCMARK`: an escape marker (R70 (2), R109). -/
def execEscmark (s : State) : Host.Outcome State Fault Refusal :=
  if s.reading ∧ s.unescaping = false then feedByte Config.esc s else .refused .notThisSymbol

/-- `LITERAL d`: any other byte, an unescaped `MARKER` included (R70 (3), R109, R111). -/
def execLiteral (d : Byte) (s : State) : Host.Outcome State Fault Refusal :=
  if s.reading ∧ s.unescaping = false ∧ d ≠ Config.esc then feedByte d s else .refused .notThisSymbol

end Sys2Proof.Machine
end

