-- ==== Sys2Proof/Machine/FrameEncoder.lean ====
section
/-! DEFINITION. The TX frame encoder (43_frame_encoder.md) and the fields of a frame on the wire (30_encoding.md R60 to R67). -/

namespace Sys2Proof.Machine

/-- `HDR_PACK(flags, N)` (R150). -/
def headerPack (e : Endian) (flags n : Half) : List Byte :=
  let h := pack16 e flags ++ pack16 e n
  h ++ [headerChecksum (h.getD 0 0) (h.getD 1 0) (h.getD 2 0) (h.getD 3 0)]

/-- The content `C` of a frame (30_encoding.md R60, R151): header, payload, CRC32 of both. -/
def frameContent (e : Endian) (flags : Half) (payload : List Byte) : List Byte :=
  let h := headerPack e flags (BitVec.ofNat 16 payload.length)
  h ++ payload ++ pack32 e (frameChecksum (h ++ payload))

/-- The bytes of a frame on the wire (R60): the raw preamble, then the escaped content. -/
def frameWire (c : Cfg) (flags : Half) (payload : List Byte) : List Byte :=
  pack32 c.endian c.preamble ++ escapeBytes (frameContent c.endian flags payload)

/-- What `ENCODE` returns (R151); the length is tested before anything is produced (R152). -/
def encodeFrame (c : Cfg) (flags : Half) (payload : List Byte) : Result :=
  if c.maxLen.toNat < payload.length then .lengthExceeded payload.length
  else .encoded (frameWire c flags payload)

/-- `ENCODE flags, P` (R151, R152): no state but the result. -/
def execEncode (flags : Half) (payload : List Byte) (s : State) : Host.Outcome State Fault Refusal :=
  .next (s.respond (encodeFrame s.cfg flags payload))

/-! ### The fields, as the transmitter puts them on the wire (log 9) -/

/-- `FIELD_PREAMBLE p`: `pack32(PREAMBLE)`, four raw bytes, never escaped (R61). -/
def execFieldPreamble (p : Word) (s : State) : Host.Outcome State Fault Refusal :=
  if ofImage32 s.cfg.endian p = s.cfg.preamble then .next (s.respond (.bytes (wordBytes p)))
  else .refused .operandOutOfRange

/-- `FIELD_FLAGS f`: the two content bytes, escaped; every value is legal (R62). -/
def execFieldFlags (f : Half) (s : State) : Host.Outcome State Fault Refusal :=
  .next (s.respond (.bytes (escapeBytes (halfBytes f))))

/-- `FIELD_LENGTH n`: the two content bytes, escaped; `0 <= N <= MAXLEN` (R63). -/
def execFieldLength (n : Half) (s : State) : Host.Outcome State Fault Refusal :=
  if (ofImage16 s.cfg.endian n).toNat ≤ s.cfg.maxLen.toNat then
    .next (s.respond (.bytes (escapeBytes (halfBytes n))))
  else .refused .operandOutOfRange

/-- `FIELD_HCK h`: one content byte, escaped (R64). -/
def execFieldHck (h : Byte) (s : State) : Host.Outcome State Fault Refusal :=
  .next (s.respond (.bytes (escapeByte h)))

/-- `FIELD_PAYLOAD_BYTE y`: one content byte, escaped (R65). -/
def execFieldPayloadByte (y : Byte) (s : State) : Host.Outcome State Fault Refusal :=
  .next (s.respond (.bytes (escapeByte y)))

/-- `FIELD_CRC32 c`: the four content bytes, escaped (R66). -/
def execFieldCrc32 (c : Word) (s : State) : Host.Outcome State Fault Refusal :=
  .next (s.respond (.bytes (escapeBytes (wordBytes c))))

end Sys2Proof.Machine
end

