-- ==== Sys2Proof/Machine/Requests.lean ====
section
/-! DEFINITION. The requests without a unit, and the results and statuses the block gives back (30_encoding.md R73 to R75, R78). -/

namespace Sys2Proof.Machine

/-- `NOP`: nothing is read or written, nothing is returned (R78). -/
def execNop (s : State) : Host.Outcome State Fault Refusal := .next (s.respond .nothing)

/-- `RESERVED_OP`: refused by the spec (R75 item 8, X9). -/
def execReservedOp (r : BitVec 3) (_s : State) : Host.Outcome State Fault Refusal :=
  .refused (.reservedOperation r)

/-! ### Results handed to the host (log 10) -/

/-- `RES_NONE`: `res = 00`, nothing (R74). -/
def execResNone (s : State) : Host.Outcome State Fault Refusal := .next (s.respond (.feed none))

/-- `RES_FRAME_VALID`: `res = 01` with flags and payload (R74, R135); a frame's payload is at most `MAXLEN` long
(R155). -/
def execResFrameValid (flags : Half) (payload : List Byte) (s : State) : Host.Outcome State Fault Refusal :=
  if payload.length ≤ s.cfg.maxLen.toNat then
    .next (s.respond (.feed (some { flags := flags, payload := payload, damaged := false })))
  else .refused .operandOutOfRange

/-- `RES_FRAME_DAMAGED`: `res = 10`, only when `LENIENT = 1` (R74, R136). -/
def execResFrameDamaged (flags : Half) (payload : List Byte) (s : State) : Host.Outcome State Fault Refusal :=
  if payload.length ≤ s.cfg.maxLen.toNat ∧ s.cfg.lenient = true then
    .next (s.respond (.feed (some { flags := flags, payload := payload, damaged := true })))
  else .refused .operandOutOfRange

/-- `RES_RESERVED`: `res = 11` is never produced (R74, X9). -/
def execResReserved (_s : State) : Host.Outcome State Fault Refusal := .refused .reservedResult

/-- `ST_OK`: `st = 0` with the byte sequence (R74, R151). -/
def execStOk (bytes : List Byte) (s : State) : Host.Outcome State Fault Refusal :=
  .next (s.respond (.encoded bytes))

/-- `ST_LENGTH_EXCEEDED`: `st = 1`, no bytes; only a length above `MAXLEN` exceeds it (R74, R152). -/
def execStLengthExceeded (length : Word) (s : State) : Host.Outcome State Fault Refusal :=
  if s.cfg.maxLen.toNat < length.toNat then .next (s.respond (.lengthExceeded length.toNat))
  else .refused .operandOutOfRange

/-- The row of the table that carries a result of `FEED` or `ENCODE` (R74). -/
def resultRow : Result → Option Instr
  | .feed none => some .resNone
  | .feed (some f) =>
    some (if f.damaged then .resFrameDamaged f.flags f.payload else .resFrameValid f.flags f.payload)
  | .encoded s => some (.stOk s)
  | .lengthExceeded n => some (.stLengthExceeded (BitVec.ofNat 32 n))
  | _ => none

end Sys2Proof.Machine
end

