-- ==== Sys2Proof/Machine/Dispatch.lean ====
section
/-! DEFINITION. One arm per row of the opcode table. -/

namespace Sys2Proof.Machine

def exec (i : Instr) (s : State) : Host.Outcome State Fault Refusal :=
  match i with
  | .nop => Sys2Proof.Machine.execNop s
  | .feed d => Sys2Proof.Machine.execFeed d s
  | .encode flags payload => Sys2Proof.Machine.execEncode flags payload s
  | .hck b0 b1 b2 b3 => Sys2Proof.Machine.execHck b0 b1 b2 b3 s
  | .crcUpd crc c => Sys2Proof.Machine.execCrcUpd crc c s
  | .crc32 bytes => Sys2Proof.Machine.execCrc32 bytes s
  | .escEnc b => Sys2Proof.Machine.execEscEnc b s
  | .escape bytes => Sys2Proof.Machine.execEscape bytes s
  | .reservedOp r => Sys2Proof.Machine.execReservedOp r s
  | .raw d => Sys2Proof.Machine.execRaw d s
  | .preamble p => Sys2Proof.Machine.execPreamble p s
  | .preambleRecLittle => Sys2Proof.Machine.execPreambleRecLittle s
  | .preambleRecBig => Sys2Proof.Machine.execPreambleRecBig s
  | .escaped d => Sys2Proof.Machine.execEscaped d s
  | .escmark => Sys2Proof.Machine.execEscmark s
  | .literal d => Sys2Proof.Machine.execLiteral d s
  | .txPlain b => Sys2Proof.Machine.execTxPlain b s
  | .txEscMarker => Sys2Proof.Machine.execTxEscMarker s
  | .txEscEsc => Sys2Proof.Machine.execTxEscEsc s
  | .fieldPreamble p => Sys2Proof.Machine.execFieldPreamble p s
  | .fieldFlags f => Sys2Proof.Machine.execFieldFlags f s
  | .fieldLength n => Sys2Proof.Machine.execFieldLength n s
  | .fieldHck h => Sys2Proof.Machine.execFieldHck h s
  | .fieldPayloadByte y => Sys2Proof.Machine.execFieldPayloadByte y s
  | .fieldCrc32 c => Sys2Proof.Machine.execFieldCrc32 c s
  | .resNone => Sys2Proof.Machine.execResNone s
  | .resFrameValid flags payload => Sys2Proof.Machine.execResFrameValid flags payload s
  | .resFrameDamaged flags payload => Sys2Proof.Machine.execResFrameDamaged flags payload s
  | .resReserved => Sys2Proof.Machine.execResReserved s
  | .stOk bytes => Sys2Proof.Machine.execStOk bytes s
  | .stLengthExceeded length => Sys2Proof.Machine.execStLengthExceeded length s

end Sys2Proof.Machine
end

