-- ==== Sys2Proof/Machine/Step.lean ====
section
/-! DEFINITION. One step: serve the host's next transaction (30_encoding.md R73). -/

namespace Sys2Proof.Machine

/-- One atomic step (70_reset_and_hazards.md R214). With no transaction pending it is `NOP`, "no request this step"
(R78); else the first transaction is taken, decoded and run (log 5). -/
def step (s : State) : Host.Outcome State Fault Refusal :=
  match s.input with
  | [] => exec .nop s
  | t :: rest =>
    match decode t with
    | .error e => .refused (.undecodable e)
    | .ok i => exec i { s with input := rest }

/-- The receiver put where raw bytes of a channel are read: a seeking symbol needs the seeking stage, a reading symbol
a reading stage and its flag (R69, R70). A receiver that is there already is left alone; so is every other channel. -/
def State.selectFor (s : State) (c : Channel) : State :=
  match c with
  | .rxSeeking => if s.state = .seekingPreamble then s else { s with state := .seekingPreamble, unescaping := false }
  | .rxReading => { s with state := if s.state = .seekingPreamble then .readingHeader else s.state, unescaping := false }
  | .rxPending => { s with state := if s.state = .seekingPreamble then .readingHeader else s.state, unescaping := true }
  | _ => s

/-- The state whose next step runs the instruction of a bare table word (log 13). A word that is no row is a
transaction the decoder refuses. -/
def State.withFetchWord (s : State) (nbits w : Nat) : State :=
  match tableTransaction nbits w with
  | none => { s with input := { channel := .request, bytes := [] } :: s.input }
  | some t => { (s.selectFor t.channel) with input := t :: s.input }

end Sys2Proof.Machine
end

