-- ==== Sys2Proof/Machine/HostLink.lean ====
section
/-! DEFINITION. The host's pseudo-operations (45_host_link.md): not part of the block, they only issue `FEED` and `ENCODE`.
A source is the list of bytes it will still deliver before its next empty read (R161); a sink is the list of bytes
delivered so far, with the transport's answer to each write (R162). -/

namespace Sys2Proof.Machine

/-- What `READ_FRAME` gives back (R164): the frame or nothing, the bytes left in the source, the block. -/
structure HostRead where
  frame : Option Frame
  source : List Byte
  block : State
deriving DecidableEq, Repr

/-- `READ_FRAME()` (R164): one byte at a time until a frame or the end of stream (R165). -/
def readFrame : List Byte → State → Host.Outcome HostRead Fault Refusal
  | [], s => .next { frame := none, source := [], block := s }
  | d :: source, s =>
    match execFeed d s with
    | .fault f => .fault f
    | .refused r => .refused r
    | .next t =>
      match t.result with
      | .feed (some f) => .next { frame := some f, source := source, block := t }
      | _ => readFrame source t

/-- The transport's answer to one write (R162): every byte delivered, or a failure after some number of them. The count a
delivering sink may give back is the number of bytes, and nothing reads it. Which answer comes, and after how many bytes
a failure comes, is the transport's: an argument, so that statements hold for each (log 18). -/
inductive SinkAnswer where
  | delivers
  | fails (after : Nat)
deriving DecidableEq, Repr

/-- `write(bytes)` on a sink (R162): the bytes delivered then, and whether the write succeeded. -/
def sinkWrite (answer : SinkAnswer) (bytes sink : List Byte) : List Byte × Bool :=
  match answer with
  | .delivers => (sink ++ bytes, true)
  | .fails after => (sink ++ bytes.take after, false)

/-- How a `WRITE_FRAME` ends (R163). -/
inductive WriteStatus where
  /-- Every byte of the frame was delivered. -/
  | ok
  /-- `ENCODE` answered `LengthExceeded`: no byte was written (R152). -/
  | lengthExceeded (length : Nat)
  /-- The sink failed, and the failure is handed on to the caller (R162, R163). -/
  | sinkFailed
deriving DecidableEq, Repr

/-- What `WRITE_FRAME` gives back (R163): how it ended, the sink, the block. -/
structure HostWrite where
  status : WriteStatus
  sink : List Byte
  block : State
deriving DecidableEq, Repr

/-- `WRITE_FRAME f` (R163): `ENCODE`, then write every byte in order; on `LengthExceeded` nothing is written, and a
failure of the sink propagates. -/
def writeFrame (flags : Half) (payload : List Byte) (answer : SinkAnswer) (sink : List Byte) (s : State) :
    Host.Outcome HostWrite Fault Refusal :=
  match execEncode flags payload s with
  | .fault f => .fault f
  | .refused r => .refused r
  | .next t =>
    match t.result with
    | .encoded bytes =>
      let (delivered, ok) := sinkWrite answer bytes sink
      .next { status := if ok then .ok else .sinkFailed, sink := delivered, block := t }
    | _ => .next { status := .lengthExceeded payload.length, sink := sink, block := t }

end Sys2Proof.Machine
end

