-- ==== Sys2Proof/Safety.lean ====
section
/-! DEFINITION. The terms statements are made in: the invariants of 10_state.md R31, what a feed leaves alone, and which
parts of the buffer are live (20_memory.md R51). -/

namespace Sys2Proof.Machine

/-- The canonical form of the buffer: rising indices, no cell that reads as an unlisted one, every cell inside
`0 .. CAP - 1` (20_memory.md R40). -/
abbrev State.bufferCanonical (s : State) : Prop :=
  s.buf.wf ∧ ∀ c ∈ s.buf, c.1 < s.cfg.cap

/-- The invariants of R31, items 1 to 5, with the canonical form of the buffer. -/
abbrev State.Inv (s : State) : Prop :=
  s.bufferCanonical ∧
  s.cursor < s.cfg.cap ∧
  (s.state = .seekingPreamble → s.unescaping = false) ∧
  (s.state = .readingHeader → s.cursor ≤ 4) ∧
  (s.state = .readingBody →
    s.rxLength ≤ s.cfg.maxLen.toNat ∧
    s.buf.read 4 = s.buf.read 0 ^^^ s.buf.read 1 ^^^ s.buf.read 2 ^^^ s.buf.read 3 ∧
    5 ≤ s.cursor ∧ s.cursor ≤ 5 + s.rxLength + 3) ∧
  (s.unescaping = true → s.state ≠ .seekingPreamble ∧ s.buf.read s.cursor = Config.esc)

/-- Where every run begins and the receiver comes back to after each frame or corruption (R33, 70_reset_and_hazards.md R201):
seeking with an empty window. -/
abbrev State.fresh (s : State) : Prop :=
  s.state = .seekingPreamble ∧ s.cursor = 0 ∧ s.unescaping = false

/-- `t` has the buffer of `s` with `d` stored at index `a` and every other byte as before. -/
def State.storedOnly (s t : State) (a : Nat) (d : Byte) : Prop :=
  t.buf.read a = d ∧ ∀ x, x ≠ a → t.buf.read x = s.buf.read x

/-- The configuration and the host's pending transactions are as before. -/
def State.sameOutside (s t : State) : Prop := t.cfg = s.cfg ∧ t.input = s.input

/-- `s` and `t` agree on everything but stale buffer bytes (indices at or above `cursor`, R24), the last result and the
trace name. -/
def State.sameLive (s t : State) : Prop :=
  t.state = s.state ∧ t.cursor = s.cursor ∧ t.unescaping = s.unescaping ∧ t.cfg = s.cfg ∧ t.input = s.input ∧
  ∀ a, a < s.cursor → t.buf.read a = s.buf.read a

/-- `s` and `t` agree on everything but the last result and the trace name. -/
def State.sameRegisters (s t : State) : Prop :=
  t.state = s.state ∧ t.cursor = s.cursor ∧ t.unescaping = s.unescaping ∧ t.cfg = s.cfg ∧ t.input = s.input ∧
  t.buf = s.buf

/-- The rows that are raw bytes at the receiver: `FEED` and the receive symbols (R69, R70). -/
def isReceiveRow : Instr → Bool
  | .feed _ => true
  | .raw _ => true
  | .preamble _ => true
  | .preambleRecLittle => true
  | .preambleRecBig => true
  | .escaped _ => true
  | .escmark => true
  | .literal _ => true
  | _ => false

/-- The eight operations the host may request (R73). -/
def isRequestRow : Instr → Bool
  | .nop => true
  | .feed _ => true
  | .encode _ _ => true
  | .hck _ _ _ _ => true
  | .crcUpd _ _ => true
  | .crc32 _ => true
  | .escEnc _ => true
  | .escape _ => true
  | _ => false

/-- The frames a byte sequence yields from a state, `none` where the machine stops. -/
def framesOf (bytes : List Byte) (s : State) : Option (List Frame) :=
  match feedSeq bytes s with
  | .next (_, frames) => some frames
  | _ => none

/-- No window of four raw bytes of `garbage ++ preamble` that ends before the preamble's last byte reads as the preamble
(42_framesync.md R143, the strict reading of 90_conflicts.md C9). -/
abbrev noEarlyMatch (c : Cfg) (garbage : List Byte) : Prop :=
  ∀ k, k < garbage.length →
    ((garbage ++ pack32 c.endian c.preamble).drop k).take 4 ≠ pack32 c.endian c.preamble

/-- The bytes an outcome delivers on the result port. -/
def deliveredBytes (o : Host.Outcome State Fault Refusal) : List Byte :=
  match o with
  | .next t =>
    match t.result with
    | .bytes s => s
    | _ => []
  | _ => []

/-- The fields of the frame `(flags, payload)` in wire order (30_encoding.md R60 to R67). A wire image is its value with
the bytes in `ENDIAN` order, and `ofImage16`, `ofImage32` are their own inverses. -/
def fieldsOf (c : Cfg) (flags : Half) (payload : List Byte) : List Instr :=
  let n : Half := BitVec.ofNat 16 payload.length
  let h := pack16 c.endian flags ++ pack16 c.endian n
  let hck := headerChecksum (h.getD 0 0) (h.getD 1 0) (h.getD 2 0) (h.getD 3 0)
  [.fieldPreamble (ofImage32 c.endian c.preamble), .fieldFlags (ofImage16 c.endian flags),
    .fieldLength (ofImage16 c.endian n), .fieldHck hck] ++
  payload.map .fieldPayloadByte ++
  [.fieldCrc32 (ofImage32 c.endian (frameChecksum (h ++ [hck] ++ payload)))]

/-- The next state of an outcome, if there is one. -/
def nextOf {α : Type} (o : Host.Outcome α Fault Refusal) : Option α :=
  match o with
  | .next t => some t
  | _ => none

end Sys2Proof.Machine
end

