-- ==== Sys2Proof/Certificates/Slice0/Obligations.lean ====
section
/-! DEFINITION. The statements for the provers. Where a title names a rule, the docstring says which. -/

open Sys2Proof Sys2Proof.Machine

/-! ### Decoding and the step -/

/-- Decoding the encoding of a well-formed row gives the row back, every operand at every value. The layout of operands is
the model's (log 6). -/
def Obligations.DecodeOfEncodeIsTheInstruction : Prop :=
  ∀ i : Instr, i.wellFormed = true → decode (encode i) = .ok i

/-- Each transaction that decodes is the encoding of the row it decodes to: no two transactions are one row, and only
well-formed rows are decoded. The layout of operands is the model's (log 6). -/
def Obligations.EncodeOfDecodeIsTheTransaction : Prop :=
  ∀ (t : Transaction) (i : Instr), decode t = .ok i → encode i = t ∧ i.wellFormed = true

/-- The request codes of R73 are the low four bits of the first byte; and at least one word of each of the thirteen code
spaces (request, receive, transmit, field, result, status) decodes to the row the table gives it. The places of the operands are the model's (log 6). -/
def Obligations.TableWordsDecode : Prop :=
  (∀ (i : Instr) (op : BitVec 4), opCode i = some op → (encodeBytes i).head? = some (0#4 ++ op)) ∧
  decode { channel := .request, bytes := [0x00#8] } = .ok .nop ∧
  (∀ d, decode { channel := .request, bytes := [0x01#8, d] } = .ok (.feed d)) ∧
  decode { channel := .request, bytes := [0x02#8, 0x00#8, 0xAA#8, 0x1B#8] } = .ok (.encode 0x00AA#16 [0x1B#8]) ∧
  decode { channel := .request, bytes := [0x03#8, 0x0A#8, 0x00#8, 0x00#8, 0x00#8] } = .ok (.hck 0x0A#8 0#8 0#8 0#8) ∧
  decode { channel := .request, bytes := [0x04#8, 0xE0#8, 0xD5#8, 0xE9#8, 0x1E#8, 0x00#8] } =
    .ok (.crcUpd 0xE0D5E91E#32 0x00#8) ∧
  (∀ s, decode { channel := .request, bytes := 0x05#8 :: s } = .ok (.crc32 s)) ∧
  (∀ b, decode { channel := .request, bytes := [0x06#8, b] } = .ok (.escEnc b)) ∧
  (∀ s, decode { channel := .request, bytes := 0x07#8 :: s } = .ok (.escape s)) ∧
  decode { channel := .rxSeeking, bytes := [0x55#8, 0xAA#8, 0x55#8, 0xAA#8] } = .ok .preambleRecLittle ∧
  decode { channel := .rxSeeking, bytes := [0xAA#8, 0x55#8, 0xAA#8, 0x55#8] } = .ok .preambleRecBig ∧
  (∀ d, decode { channel := .rxPending, bytes := [d] } = .ok (.escaped d)) ∧
  decode { channel := .rxReading, bytes := [0x1B#8] } = .ok .escmark ∧
  decode { channel := .rxReading, bytes := [0xAA#8] } = .ok (.literal 0xAA#8) ∧
  decode { channel := .txSymbol, bytes := [0x1B#8, 0xAA#8] } = .ok .txEscMarker ∧
  decode { channel := .txSymbol, bytes := [0x1B#8, 0x1B#8] } = .ok .txEscEsc ∧
  decode { channel := .fieldPreamble, bytes := [0x55#8, 0xAA#8, 0x55#8, 0xAA#8] } = .ok (.fieldPreamble 0x55AA55AA#32) ∧
  decode { channel := .fieldFlags, bytes := [0x7B#8, 0x00#8] } = .ok (.fieldFlags 0x7B00#16) ∧
  decode { channel := .fieldLength, bytes := [0x01#8, 0x00#8] } = .ok (.fieldLength 0x0100#16) ∧
  (∀ h, decode { channel := .fieldHck, bytes := [h] } = .ok (.fieldHck h)) ∧
  (∀ y, decode { channel := .fieldPayload, bytes := [y] } = .ok (.fieldPayloadByte y)) ∧
  decode { channel := .fieldCrc, bytes := [0x6A#8, 0x79#8, 0xD5#8, 0x49#8] } = .ok (.fieldCrc32 0x6A79D549#32) ∧
  decode { channel := .feedResult, bytes := [0x00#8] } = .ok .resNone ∧
  decode { channel := .feedResult, bytes := [0x01#8, 0x00#8, 0x7B#8, 0x00#8, 0x00#8] } =
    .ok (.resFrameValid 0x007B#16 []) ∧
  decode { channel := .encodeStatus, bytes := [0x00#8] } = .ok (.stOk [])

/-- A step takes the host's first transaction and runs the row it decodes to; with none pending it runs `NOP`; bytes that
are no row are refused by name. The queue of transactions is the model's (log 5). -/
def Obligations.StepRunsTheDecodedInstruction : Prop :=
  (∀ (s : State) (t : Transaction) (rest : List Transaction) (i : Instr),
    s.input = t :: rest → decode t = .ok i → step s = exec i { s with input := rest }) ∧
  (∀ s : State, s.input = [] → step s = exec .nop s) ∧
  (∀ (s : State) (t : Transaction) (rest : List Transaction) (e : DecodeError),
    s.input = t :: rest → decode t = .error e → step s = .refused (.undecodable e))

/-- The reserved operation codes 1000 to 1111 and the reserved result code 11 decode to their rows and are refused by name
in every state (30_encoding.md R75 item 8, 93_implementation_defined.md X9). That the codes have rows of their own to decode
to is the model's reading (log 15), and that a code is the low bits of a byte is the model's choice (log 6). -/
def Obligations.ReservedCodesAreRefused : Prop :=
  (∀ r : BitVec 3, decode { channel := .request, bytes := [0b00001#5 ++ r] } = .ok (.reservedOp r)) ∧
  (∀ (r : BitVec 3) (s : State), exec (.reservedOp r) s = .refused (.reservedOperation r)) ∧
  decode { channel := .feedResult, bytes := [0b00000011#8] } = .ok .resReserved ∧
  (∀ s : State, exec .resReserved s = .refused .reservedResult)

/-- R78: `NOP` has code 0000, reads no state, writes no state and returns nothing. -/
def Obligations.NopLeavesTheBlockUnchanged : Prop :=
  opCode .nop = some 0b0000#4 ∧ ∀ s : State, exec .nop s = .next { s with result := .nothing }

/-! ### The buffer -/

/-- A byte written is the byte read there, and every other index reads as before. -/
def Obligations.BufferReadAfterWrite : Prop :=
  ∀ (m : Memory) (a : Nat) (b : Byte), (m.write a b).read a = b ∧ ∀ x, x ≠ a → (m.write a b).read x = m.read x

/-! ### U1, the checksum engine -/

/-- R90: `HCK` has code 0011, is the XOR of its four bytes and changes nothing; it is content byte 4; its value for a header
does not depend on `ENDIAN`; the all-zero header gives 0, equal bytes cancel; every error in one covered byte, or in the
checksum byte alone, is detected and some error in two is not; the rule's examples. -/
def Obligations.HckIsTheXorOfFourBytes : Prop :=
  (∀ b0 b1 b2 b3 : Byte, opCode (.hck b0 b1 b2 b3) = some 0b0011#4) ∧
  (∀ (e : Endian) (flags : Half) (payload : List Byte), ∃ b0 b1 b2 b3 : Byte,
    (frameContent e flags payload).take 5 = [b0, b1, b2, b3, headerChecksum b0 b1 b2 b3]) ∧
  (∀ (b0 b1 b2 b3 x : Byte), x ≠ 0#8 → headerChecksum b0 b1 b2 b3 ^^^ x ≠ headerChecksum b0 b1 b2 b3) ∧
  (∀ (b0 b1 b2 b3 : Byte) (s : State),
    exec (.hck b0 b1 b2 b3) s = .next { s with result := .byte (b0 ^^^ b1 ^^^ b2 ^^^ b3) }) ∧
  (∀ (e : Endian) (flags n : Half) (b0 b1 b2 b3 : Byte), pack16 e flags ++ pack16 e n = [b0, b1, b2, b3] →
    headerChecksum b0 b1 b2 b3 =
      flags.extractLsb' 0 8 ^^^ flags.extractLsb' 8 8 ^^^ n.extractLsb' 0 8 ^^^ n.extractLsb' 8 8) ∧
  headerChecksum 0#8 0#8 0#8 0#8 = 0#8 ∧
  (∀ b c : Byte, headerChecksum b b c c = 0#8) ∧
  (∀ (b0 b1 b2 b3 x : Byte), x ≠ 0#8 →
    headerChecksum (b0 ^^^ x) b1 b2 b3 ≠ headerChecksum b0 b1 b2 b3 ∧
    headerChecksum b0 (b1 ^^^ x) b2 b3 ≠ headerChecksum b0 b1 b2 b3 ∧
    headerChecksum b0 b1 (b2 ^^^ x) b3 ≠ headerChecksum b0 b1 b2 b3 ∧
    headerChecksum b0 b1 b2 (b3 ^^^ x) ≠ headerChecksum b0 b1 b2 b3) ∧
  (∃ (b0 b1 b2 b3 x : Byte), x ≠ 0#8 ∧ headerChecksum (b0 ^^^ x) (b1 ^^^ x) b2 b3 = headerChecksum b0 b1 b2 b3) ∧
  headerChecksum 0x7B#8 0#8 0#8 0#8 = 0x7B#8 ∧ headerChecksum 0xAA#8 0#8 1#8 0#8 = 0xAB#8 ∧
  headerChecksum 0x0A#8 0#8 0#8 0#8 = 0x0A#8

/-- R91: `CRC_F` is the eighth value of the recipe: the low byte of `crc XOR c`, then eight times the low bit tested before
a right shift by one, the polynomial XORed in when it was 1; it depends only on that low byte; the rule's table entries and its worked example. -/
def Obligations.CrcFeedbackWordIsTheRecipe : Prop :=
  (∀ (crc : Word) (c : Byte), ∃ v : Nat → Word,
    v 0 = (crc ^^^ c.setWidth 32) &&& 0x000000FF#32 ∧
    (∀ k, k < 8 → v (k + 1) = if (v k).getLsbD 0 then (v k >>> 1) ^^^ 0xEDB88320#32 else v k >>> 1) ∧
    crcF crc c = v 8) ∧
  (∀ (crc : Word) (c : Byte), crcF crc c = crcF 0#32 (crc.extractLsb' 0 8 ^^^ c)) ∧
  crcF 0#32 0x00#8 = 0x00000000#32 ∧ crcF 0#32 0x01#8 = 0x77073096#32 ∧ crcF 0#32 0x02#8 = 0xEE0E612C#32 ∧
  crcF 0#32 0x80#8 = 0xEDB88320#32 ∧ crcF 0#32 0xFF#8 = 0x2D02EF8D#32 ∧ crcF 0#32 0xAA#8 = 0x36034AF6#32 ∧
  crcF 0#32 0x1B#8 = 0x8A65C9EC#32 ∧ crcF 0x12345678#32 0x9A#8 = 0x4E048354#32 ∧ crcF 0#32 0xE2#8 = 0x4E048354#32 ∧
  (List.range 9).map (fun k => crcShifts k 0x00000001#32) =
    [0x00000001#32, 0xEDB88320#32, 0x76DC4190#32, 0x3B6E20C8#32, 0x1DB71064#32, 0x0EDB8832#32, 0x076DC419#32,
      0xEE0E612C#32, 0x77073096#32]

/-- R92: `CRC_UPD`, its code 0100 and that it changes nothing; the mask changes nothing; the rule's corner cases and examples. -/
def Obligations.CrcUpdFoldsOneByte : Prop :=
  (∀ (crc : Word) (c : Byte), opCode (.crcUpd crc c) = some 0b0100#4) ∧
  (∀ (crc : Word) (c : Byte) (s : State),
    exec (.crcUpd crc c) s = .next { s with result := .word (((crc >>> 8) &&& 0x00FFFFFF#32) ^^^ crcF crc c) }) ∧
  (∀ crc : Word, (crc >>> 8) &&& 0x00FFFFFF#32 = crc >>> 8) ∧
  crcUpdate 0#32 0x00#8 = 0#32 ∧ crcUpdate 0xFFFFFFFF#32 0xFF#8 = 0x00FFFFFF#32 ∧
  crcUpdate 0xFFFFFFFF#32 0x00#8 = 0x2DFD1072#32 ∧ crcUpdate 0x12345678#32 0x9A#8 = 0x4E16B702#32 ∧
  crcUpdate 0#32 0x7B#8 = 0xC7D7A8B4#32

/-- R93: `CRC32` has code 0101, answers the fold of `CRC_UPD` from 0 with no final step and changes nothing; the last field
of a frame is its value over the five header bytes and the payload; the rule's values. -/
def Obligations.Crc32IsTheFoldOfCrcUpd : Prop :=
  (∀ bytes : List Byte, opCode (.crc32 bytes) = some 0b0101#4) ∧
  (∀ (e : Endian) (flags : Half) (payload : List Byte), ∃ h : List Byte, h.length = 5 ∧
    frameContent e flags payload = h ++ payload ++ pack32 e (frameChecksum (h ++ payload))) ∧
  (∀ (bytes : List Byte) (s : State), exec (.crc32 bytes) s = .next { s with result := .word (frameChecksum bytes) }) ∧
  frameChecksum [] = 0x00000000#32 ∧
  (∀ (bytes : List Byte) (c : Byte), frameChecksum (bytes ++ [c]) = crcUpdate (frameChecksum bytes) c) ∧
  frameChecksum [0x00#8] = 0#32 ∧ frameChecksum [0x01#8] = 0x77073096#32 ∧
  frameChecksum [0x80#8] = 0xEDB88320#32 ∧ frameChecksum [0xFF#8] = 0x2D02EF8D#32 ∧
  frameChecksum [0xFF#8, 0xFF#8, 0xFF#8, 0xFF#8] = 0xDEBB20E3#32 ∧
  frameChecksum [0x00#8, 0x00#8, 0x00#8, 0x01#8] = 0x77073096#32 ∧
  frameChecksum [0x01#8, 0x00#8, 0x00#8, 0x00#8] = 0xB8BC6765#32 ∧
  frameChecksum [0x7B#8] = 0xC7D7A8B4#32 ∧ frameChecksum [0x7B#8, 0x00#8] = 0xCCCBA03D#32 ∧
  frameChecksum [0x7B#8, 0x00#8, 0x00#8] = 0x58A487B1#32 ∧
  frameChecksum [0x7B#8, 0x00#8, 0x00#8, 0x00#8] = 0xBC3E279D#32 ∧
  frameChecksum [0x7B#8, 0x00#8, 0x00#8, 0x00#8, 0x7B#8] = 0x49D5796A#32 ∧
  frameChecksum [0x31#8, 0x32#8, 0x33#8, 0x34#8, 0x35#8, 0x36#8, 0x37#8, 0x38#8, 0x39#8] = 0x2DFD2D88#32

/-- R94: eight steps of a right-shifting register that takes bit 0 of the byte first give `CRC_UPD`, for every running value
and byte; the taps are the fourteen 1-bits of the polynomial. -/
def Obligations.BitSerialFormEqualsCrcUpd : Prop :=
  (∀ (crc : Word) (c : Byte), ∃ v : Nat → Word, v 0 = crc ∧
    (∀ i, i < 8 → v (i + 1) = (v i >>> 1) ^^^ (if (v i).getLsbD 0 ^^ c.getLsbD i then 0xEDB88320#32 else 0#32)) ∧
    crcUpdateBits crc c = v 8 ∧ crcUpdate crc c = v 8) ∧
  (∀ i, i < 32 → (0xEDB88320#32 : Word).getLsbD i = decide (i ∈ [31, 30, 29, 27, 26, 24, 23, 21, 20, 19, 15, 9, 8, 5]))

/-- R96 (b): leading zero bytes are invisible. -/
def Obligations.Crc32LeadingZerosAreInvisible : Prop :=
  ∀ (k : Nat) (s : List Byte), frameChecksum (List.replicate k 0x00#8 ++ s) = frameChecksum s

/-- R96 (c): for sequences of equal length the checksum of the bytewise XOR is the XOR of the checksums. -/
def Obligations.Crc32IsLinear : Prop :=
  ∀ a b : List Byte, a.length = b.length →
    frameChecksum (List.zipWith (fun x y => x ^^^ y) a b) = frameChecksum a ^^^ frameChecksum b

/-- R96 (d): appending the checksum least significant byte first gives checksum 0, so that with `ENDIAN = LITTLE` the
checksum of the whole content is 0. -/
def Obligations.Crc32ResidueIsZero : Prop :=
  (∀ s : List Byte, frameChecksum (s ++ pack32 .little (frameChecksum s)) = 0#32) ∧
  (∀ (flags : Half) (payload : List Byte), frameChecksum (frameContent .little flags payload) = 0#32)

/-! ### U2, the byte-stuffing codec -/

/-- R106: `ESC_ENC` has code 0110, puts `ESC` before a reserved byte, gives any other byte as it is, and changes nothing; the rule's
corner cases. -/
def Obligations.EscEncEscapesReservedBytes : Prop :=
  (∀ b : Byte, opCode (.escEnc b) = some 0b0110#4) ∧
  (∀ (b : Byte) (s : State), b = 0xAA#8 ∨ b = 0x1B#8 →
    exec (.escEnc b) s = .next { s with result := .bytes [0x1B#8, b] }) ∧
  (∀ (b : Byte) (s : State), b ≠ 0xAA#8 → b ≠ 0x1B#8 →
    exec (.escEnc b) s = .next { s with result := .bytes [b] }) ∧
  escapeByte 0x55#8 = [0x55#8] ∧ escapeByte 0x00#8 = [0x00#8] ∧ escapeByte 0xAB#8 = [0xAB#8] ∧
  escapeByte 0x1A#8 = [0x1A#8]

/-- R107: `ESCAPE` has code 0111, is `ESC_ENC` of each byte in order, each independent of its neighbours, and changes nothing;
a frame is the raw preamble and the whole escaped content; the rule's corner cases and example. -/
def Obligations.EscapeIsBytewise : Prop :=
  (∀ bytes : List Byte, opCode (.escape bytes) = some 0b0111#4) ∧
  (∀ (c : Cfg) (flags : Half) (payload : List Byte),
    frameWire c flags payload = pack32 c.endian c.preamble ++ escapeBytes (frameContent c.endian flags payload)) ∧
  (∀ (bytes : List Byte) (s : State), exec (.escape bytes) s = .next { s with result := .bytes (escapeBytes bytes) }) ∧
  escapeBytes [] = [] ∧
  (∀ (b : Byte) (bytes : List Byte), escapeBytes (b :: bytes) = escapeByte b ++ escapeBytes bytes) ∧
  (∀ s t : List Byte, escapeBytes (s ++ t) = escapeBytes s ++ escapeBytes t) ∧
  (∀ s : List Byte, (∀ b ∈ s, b ≠ 0xAA#8 ∧ b ≠ 0x1B#8) → escapeBytes s = s) ∧
  escapeBytes [0x1B#8, 0xAA#8] = [0x1B#8, 0x1B#8, 0x1B#8, 0xAA#8] ∧
  escapeBytes [0xAA#8, 0x00#8, 0x01#8, 0x00#8, 0xAB#8, 0x1B#8, 0x23#8, 0xF9#8, 0xAD#8, 0xC7#8] =
    [0x1B#8, 0xAA#8, 0x00#8, 0x01#8, 0x00#8, 0xAB#8, 0x1B#8, 0x1B#8, 0x23#8, 0xF9#8, 0xAD#8, 0xC7#8]

/-- R108: the length of the escaped sequence, its bounds, the worst case, and that every `AA` in it has `1B` right before
it. -/
def Obligations.EscapeLengthAndMarkers : Prop :=
  (∀ s : List Byte, (escapeBytes s).length = s.length + s.countP (fun b => b == 0xAA#8 || b == 0x1B#8)) ∧
  (∀ s : List Byte, s.length ≤ (escapeBytes s).length ∧ (escapeBytes s).length ≤ 2 * s.length) ∧
  (∀ n : Nat, (escapeBytes (List.replicate n 0xAA#8)).length = 2 * n) ∧
  (∀ (s : List Byte) (k : Nat), (escapeBytes s)[k]? = some 0xAA#8 →
    0 < k ∧ (escapeBytes s)[k - 1]? = some 0x1B#8)

/-- R109, the three arms of `UNESC`: the flag is tested first; a marker is stored without advancing `cursor`; any other byte
is one logical byte. Nothing else changes. -/
def Obligations.UnescHasThreeArms : Prop :=
  ∀ (d : Byte) (s : State),
    (s.unescaping = true → unescape d s =
      ({ s with buf := s.buf.write s.cursor d, cursor := s.cursor + 1, unescaping := false }, true)) ∧
    (s.unescaping = false → d = 0x1B#8 → unescape d s =
      ({ s with buf := s.buf.write s.cursor d, unescaping := true }, false)) ∧
    (s.unescaping = false → d ≠ 0x1B#8 → unescape d s =
      ({ s with buf := s.buf.write s.cursor d, cursor := s.cursor + 1 }, true))

/-- R112: the batch form; raw bytes fed through `UNESC` store exactly its logical bytes at consecutive cursor positions, leave
the flag at its final value and touch nothing below; and unescaping what was escaped gives it back with the flag 0. -/
def Obligations.UnescapeBatchForm : Prop :=
  (∀ u : Bool, unescapeBytes u [] = ([], u)) ∧
  (∀ (d : Byte) (r : List Byte),
    unescapeBytes true (d :: r) = (d :: (unescapeBytes false r).1, (unescapeBytes false r).2)) ∧
  (∀ r : List Byte, unescapeBytes false (0x1B#8 :: r) = unescapeBytes true r) ∧
  (∀ (d : Byte) (r : List Byte), d ≠ 0x1B#8 →
    unescapeBytes false (d :: r) = (d :: (unescapeBytes false r).1, (unescapeBytes false r).2)) ∧
  (∀ (r : List Byte) (s : State),
    let t := r.foldl (fun u d => (unescape d u).1) s
    let logical := (unescapeBytes s.unescaping r).1
    t.cursor = s.cursor + logical.length ∧
    t.buf.readN s.cursor logical.length = logical ∧
    t.unescaping = (unescapeBytes s.unescaping r).2 ∧
    (∀ x, x < s.cursor → t.buf.read x = s.buf.read x) ∧
    t.state = s.state ∧ t.cfg = s.cfg ∧ t.input = s.input) ∧
  (∀ s : List Byte, unescapeBytes false (escapeBytes s) = (s, false))

/-- The transmit symbols complete in every state, change nothing else, and are what `ESC_ENC` gives for their byte (R106). -/
def Obligations.TxSymbolsAreTheEscapersOutput : Prop :=
  (∀ (b : Byte) (s : State), b ≠ 0xAA#8 → b ≠ 0x1B#8 →
    exec (.txPlain b) s = .next { s with result := .bytes [b] } ∧ exec (.txPlain b) s = exec (.escEnc b) s) ∧
  (∀ s : State, exec .txEscMarker s = .next { s with result := .bytes [0x1B#8, 0xAA#8] } ∧
    exec .txEscMarker s = exec (.escEnc 0xAA#8) s) ∧
  (∀ s : State, exec .txEscEsc s = .next { s with result := .bytes [0x1B#8, 0x1B#8] } ∧
    exec .txEscEsc s = exec (.escEnc 0x1B#8) s) ∧
  (∀ (b : Byte) (s : State), b = 0xAA#8 ∨ b = 0x1B#8 → exec (.txPlain b) s = .refused .operandOutOfRange)

/-! ### U3, the frame-synchronisation FSM -/

/-- R122 to R126, `FEED` in the seeking stage (rows 1 to 4 of R138): the raw byte is stored at `cursor`; with at least four
bytes and the window equal to `PREAMBLE` the header stage begins; otherwise a full buffer slides; `unescaping` is neither
read nor written; the result is `NONE`. Every byte of the buffer outside those stored reads as before. -/
def Obligations.FeedInSeekingStage : Prop :=
  ∀ (s : State) (d : Byte), s.state = .seekingPreamble → s.cursor < s.cfg.cap →
    ∃ t, exec (.feed d) s = .next t ∧ t.result = .feed none ∧ t.unescaping = s.unescaping ∧ s.sameOutside t ∧
      let matched := 3 ≤ s.cursor ∧
        unpack32 s.cfg.endian (s.buf.read (s.cursor - 3)) (s.buf.read (s.cursor - 2)) (s.buf.read (s.cursor - 1)) d =
          s.cfg.preamble
      (matched → t.state = .readingHeader ∧ t.cursor = 0 ∧ t.event = some .evPreamble ∧ s.storedOnly t s.cursor d) ∧
      (¬matched → s.cursor + 1 = s.cfg.cap →
        t.state = .seekingPreamble ∧ t.cursor = 4 ∧ t.event = some .evSlide ∧
        t.buf.read 0 = s.buf.read (s.cfg.cap - 4) ∧ t.buf.read 1 = s.buf.read (s.cfg.cap - 3) ∧
        t.buf.read 2 = s.buf.read (s.cfg.cap - 2) ∧ t.buf.read 3 = d ∧ t.buf.read (s.cfg.cap - 1) = d ∧
        ∀ x, 4 ≤ x → x ≠ s.cfg.cap - 1 → t.buf.read x = s.buf.read x) ∧
      (¬matched → s.cursor + 1 ≠ s.cfg.cap →
        t.state = .seekingPreamble ∧ t.cursor = s.cursor + 1 ∧ t.event = some .evStore ∧ s.storedOnly t s.cursor d)

/-- R128 to R131, `FEED` in the header stage (rows 5 to 8 of R138). An unescaped `ESC` is a marker: stored, not counted, the
flag set. Any other byte is stored and counted and the flag is 0; the fifth completes the header, which is accepted when the
checksum byte is the XOR of the four before it and the declared length is at most `MAXLEN`, else the receiver goes back to
seeking. The result is `NONE`; one byte of the buffer is stored, no other changes. -/
def Obligations.FeedInHeaderStage : Prop :=
  ∀ (s : State) (d : Byte), s.state = .readingHeader → s.cursor < s.cfg.cap →
    ∃ t, exec (.feed d) s = .next t ∧ t.result = .feed none ∧ s.sameOutside t ∧ s.storedOnly t s.cursor d ∧
      (s.unescaping = false ∧ d = 0x1B#8 →
        t.state = .readingHeader ∧ t.cursor = s.cursor ∧ t.unescaping = true ∧ t.event = some .evEsc) ∧
      (¬(s.unescaping = false ∧ d = 0x1B#8) → t.unescaping = false ∧
        (s.cursor ≠ 4 → t.state = .readingHeader ∧ t.cursor = s.cursor + 1 ∧ t.event = some .evStore) ∧
        (s.cursor = 4 →
          let sumOk := d = s.buf.read 0 ^^^ s.buf.read 1 ^^^ s.buf.read 2 ^^^ s.buf.read 3
          let lenOk := (unpack16 s.cfg.endian (s.buf.read 2) (s.buf.read 3)).toNat ≤ s.cfg.maxLen.toNat
          (sumOk ∧ lenOk → t.state = .readingBody ∧ t.cursor = 5 ∧ t.event = some .evHdrOk) ∧
          (¬sumOk → t.state = .seekingPreamble ∧ t.cursor = 0 ∧ t.event = some .evHdrBadCk) ∧
          (sumOk ∧ ¬lenOk → t.state = .seekingPreamble ∧ t.cursor = 0 ∧ t.event = some .evHdrBadLen)))

/-- R132 to R137, `FEED` in the body stage of a state that meets the invariants (rows 9 to 12 of R138). A marker as in the
header stage. The logical byte that brings the count to `5 + N + 4` completes the frame: the result is the frame with
`damaged = 0` when the checksum of header and payload equals the received one, else the frame with `damaged = 1` from a
lenient block and `NONE` from a strict one; whatever the check says the receiver is back in the seeking stage with cursor 0. -/
def Obligations.FeedInBodyStage : Prop :=
  ∀ (s : State) (d : Byte), s.Inv → s.state = .readingBody →
    ∃ t, exec (.feed d) s = .next t ∧ s.sameOutside t ∧ s.storedOnly t s.cursor d ∧
      let e := s.cfg.endian
      let n := (unpack16 e (s.buf.read 2) (s.buf.read 3)).toNat
      let marker := s.unescaping = false ∧ d = 0x1B#8
      (marker →
        t.state = .readingBody ∧ t.cursor = s.cursor ∧ t.unescaping = true ∧ t.result = .feed none ∧
        t.event = some .evEsc) ∧
      (¬marker → s.cursor + 1 ≠ 5 + n + 4 →
        t.state = .readingBody ∧ t.cursor = s.cursor + 1 ∧ t.unescaping = false ∧ t.result = .feed none ∧
        t.event = some .evStore) ∧
      (¬marker → s.cursor + 1 = 5 + n + 4 →
        t.state = .seekingPreamble ∧ t.cursor = 0 ∧ t.unescaping = false ∧
        let flags := unpack16 e (s.buf.read 0) (s.buf.read 1)
        let payload := s.buf.readN 5 n
        let good := frameChecksum (s.buf.readN 0 (5 + n)) =
          unpack32 e (s.buf.read (5 + n)) (s.buf.read (6 + n)) (s.buf.read (7 + n)) d
        (good → t.result = .feed (some { flags := flags, payload := payload, damaged := false }) ∧
          t.event = some .evFrameOk) ∧
        (¬good → t.event = some .evFrameDamaged ∧
          (s.cfg.lenient = true →
            t.result = .feed (some { flags := flags, payload := payload, damaged := true })) ∧
          (s.cfg.lenient = false → t.result = .feed none)))

/-- `FEED` of a byte is the row the byte is in that state: `RAW` in the seeking stage; in a reading stage `ESCAPED`, `ESCMARK`
or `LITERAL` in R70's order. -/
def Obligations.FeedIsTheSymbolOfTheByte : Prop :=
  ∀ (s : State) (d : Byte),
    (s.state = .seekingPreamble → exec (.feed d) s = exec (.raw d) s) ∧
    (s.state ≠ .seekingPreamble → s.unescaping = true → exec (.feed d) s = exec (.escaped d) s) ∧
    (s.state ≠ .seekingPreamble → s.unescaping = false → d = 0x1B#8 → exec (.feed d) s = exec .escmark s) ∧
    (s.state ≠ .seekingPreamble → s.unescaping = false → d ≠ 0x1B#8 → exec (.feed d) s = exec (.literal d) s) ∧
    exec (.feed d) s = exec (symbolOf s d) s

/-- The receive symbols of one byte complete exactly where the byte is that symbol (R69, R70) and `cursor` is in the buffer:
each stores its byte at `cursor`; a marker sets the flag and is not counted, an escaped or literal byte leaves the flag 0 and
is counted unless it completes a stage. Where the byte is another symbol the row is refused by name (log 7). -/
def Obligations.ReceiveSymbolsComplete : Prop :=
  (∀ (s : State) (d : Byte), s.state = .seekingPreamble → s.cursor < s.cfg.cap →
    ∃ t, exec (.raw d) s = .next t ∧ s.sameOutside t ∧ t.unescaping = s.unescaping ∧ t.result = .feed none ∧
      t.buf.read s.cursor = d ∧
      ∀ x, x ≠ s.cursor → 4 ≤ x ∨ s.cursor + 1 ≠ s.cfg.cap → t.buf.read x = s.buf.read x) ∧
  (∀ (s : State) (d : Byte), s.state ≠ .seekingPreamble → s.cursor < s.cfg.cap → s.unescaping = true →
    ∃ t, exec (.escaped d) s = .next t ∧ s.sameOutside t ∧ t.unescaping = false ∧ s.storedOnly t s.cursor d ∧
      (t.cursor = s.cursor + 1 ∨ t.cursor = 0)) ∧
  (∀ s : State, s.state ≠ .seekingPreamble → s.cursor < s.cfg.cap → s.unescaping = false →
    ∃ t, exec .escmark s = .next t ∧ s.sameOutside t ∧ t.unescaping = true ∧ s.storedOnly t s.cursor 0x1B#8 ∧
      t.cursor = s.cursor ∧ t.state = s.state ∧ t.result = .feed none) ∧
  (∀ (s : State) (d : Byte), s.state ≠ .seekingPreamble → s.cursor < s.cfg.cap → s.unescaping = false → d ≠ 0x1B#8 →
    ∃ t, exec (.literal d) s = .next t ∧ s.sameOutside t ∧ t.unescaping = false ∧ s.storedOnly t s.cursor d ∧
      (t.cursor = s.cursor + 1 ∨ t.cursor = 0)) ∧
  (∀ (s : State) (d : Byte), s.state ≠ .seekingPreamble → exec (.raw d) s = .refused .notThisSymbol) ∧
  (∀ (s : State) (d : Byte), s.state = .seekingPreamble ∨ s.unescaping = false →
    exec (.escaped d) s = .refused .notThisSymbol) ∧
  (∀ s : State, s.state = .seekingPreamble ∨ s.unescaping = true → exec .escmark s = .refused .notThisSymbol) ∧
  (∀ (s : State) (d : Byte), s.state = .seekingPreamble ∨ s.unescaping = true ∨ d = 0x1B#8 →
    exec (.literal d) s = .refused .notThisSymbol)

/-- R110: any byte may follow an escape marker, and `1B d` decodes exactly as a bare `d` would, for every `d` that is not
itself `ESC`: the two feeds and the one leave the same state and give the same result. -/
def Obligations.AnyByteMayFollowAnEscapeMarker : Prop :=
  ∀ (s : State) (d : Byte), s.Inv → s.state ≠ .seekingPreamble → s.unescaping = false →
    ∃ t u, exec (.feed 0x1B#8) s = .next t ∧ t.result = .feed none ∧ exec (.feed d) t = .next u ∧
      u.unescaping = false ∧ u.buf.read s.cursor = d ∧ (u.cursor = s.cursor + 1 ∨ u.cursor = 0) ∧
      (d ≠ 0x1B#8 → exec (.feed d) s = .next u)

/-- The preamble rows from a cursor of 0 (R69, R123): the four raw bytes are stored at 0 to 3 and nothing else in the buffer
changes; the header stage begins exactly when they read as `PREAMBLE`, else four bytes are buffered. The rows of the two
recommended images are the same with their images (R61). -/
def Obligations.PreambleRowsFromAnEmptyWindow : Prop :=
  (∀ (s : State) (p : Word), s.state = .seekingPreamble → s.cursor = 0 →
    ∃ t, exec (.preamble p) s = .next t ∧ s.sameOutside t ∧ t.unescaping = s.unescaping ∧ t.result = .feed none ∧
      t.buf.readN 0 4 = wordBytes p ∧ (∀ x, 4 ≤ x → t.buf.read x = s.buf.read x) ∧
      (ofImage32 s.cfg.endian p = s.cfg.preamble → t.state = .readingHeader ∧ t.cursor = 0) ∧
      (ofImage32 s.cfg.endian p ≠ s.cfg.preamble → t.state = .seekingPreamble ∧ t.cursor = 4)) ∧
  (∀ s : State, s.state = .seekingPreamble → exec .preambleRecLittle s = exec (.preamble 0x55AA55AA#32) s) ∧
  (∀ s : State, s.state = .seekingPreamble → exec .preambleRecBig s = exec (.preamble 0xAA55AA55#32) s)

/-- The preamble rows from every seeking state that meets the invariants complete with the state four feeds in order leave,
and no frame is returned; in a reading stage the detector is not active (R141) and the rows are refused by name (log 7). That
a row of four bytes is one step is the model's choice (log 8). -/
def Obligations.PreambleRowsAreFourFeeds : Prop :=
  (∀ (s : State) (p : Word), s.Inv → s.state = .seekingPreamble →
    ∃ t, exec (.preamble p) s = .next t ∧ feedSeq (wordBytes p) s = .next (t, [])) ∧
  (∀ s : State, s.Inv → s.state = .seekingPreamble →
    ∃ t, exec .preambleRecLittle s = .next t ∧ feedSeq [0x55#8, 0xAA#8, 0x55#8, 0xAA#8] s = .next (t, [])) ∧
  (∀ s : State, s.Inv → s.state = .seekingPreamble →
    ∃ t, exec .preambleRecBig s = .next t ∧ feedSeq [0xAA#8, 0x55#8, 0xAA#8, 0x55#8] s = .next (t, [])) ∧
  (∀ (s : State) (p : Word), s.state ≠ .seekingPreamble →
    exec (.preamble p) s = .refused .notThisSymbol ∧ exec .preambleRecLittle s = .refused .notThisSymbol ∧
    exec .preambleRecBig s = .refused .notThisSymbol)

/-! ### Reset and the invariants -/

/-- R33: the registers after reset for every configuration; no result exists; and the unspecified contents of `buf` cannot
influence any result: whatever the buffer holds, every byte sequence is accepted and yields the same frames. The defaults
are `MAXLEN = 65535` and strict; `ENDIAN` (and the OPEN preamble, R9) must be given. -/
def Obligations.ResetValuesAndUnspecifiedBuffer : Prop :=
  (∀ (e : Endian) (p : Word), ({ endian := e, preamble := p } : Cfg).maxLen = 65535#16 ∧
    ({ endian := e, preamble := p } : Cfg).lenient = false) ∧
  ∀ c : Cfg,
    (State.resetWith c).state = .seekingPreamble ∧ (State.resetWith c).cursor = 0 ∧
    (State.resetWith c).unescaping = false ∧ (State.resetWith c).cfg = c ∧
    (State.resetWith c).result = .nothing ∧
    ∀ (m : Memory) (bytes : List Byte),
      ∃ frames, framesOf bytes (State.resetWith c) = some frames ∧
        framesOf bytes { State.resetWith c with buf := m } = some frames

/-- The invariants of R31 hold after reset, for every configuration. -/
def Obligations.InvariantHoldsAfterReset : Prop :=
  (∀ c : Cfg, (State.resetWith c).Inv) ∧ State.reset.Inv

/-- The invariants of R31 and the canonical form of the buffer are kept by every step, whatever the host asks. -/
def Obligations.EveryStepKeepsTheInvariant : Prop :=
  ∀ s t : State, s.Inv → step s = .next t → t.Inv

/-- From every state that meets the invariants each of the eight operations completes, for every operand (R120, R181: nothing
is fatal), and so does each raw byte of the source. -/
def Obligations.EveryRequestCompletes : Prop :=
  ∀ (s : State) (i : Instr), s.Inv → isRequestRow i = true → ∃ t, exec i s = .next t ∧ t.Inv

/-- R204: the configuration is frozen; no row and no step changes it. -/
def Obligations.ConfigurationNeverChanges : Prop :=
  (∀ (i : Instr) (s t : State), exec i s = .next t → t.cfg = s.cfg) ∧
  (∀ s t : State, step s = .next t → t.cfg = s.cfg)

/-- `cursor` fits `CURSOR_W` bits in every state that meets the invariants, and `CURSOR_W` is 17 at the default `MAXLEN`
(R10). -/
def Obligations.CursorFitsItsWidth : Prop :=
  (∀ s : State, s.Inv → s.cursor < 2 ^ s.cfg.cursorWidth) ∧
  (∀ c : Cfg, c.maxLen = 65535#16 → c.cap = 65544 ∧ c.cursorWidth = 17)

/-! ### Properties of the whole machine -/

/-- Only rows that are raw bytes at the receiver move it: every other row leaves the registers, the buffer, the
configuration, the pending transactions and the trace name as they are (R20: mutated only by the single "feed one byte"
operation; R29; R154). -/
def Obligations.OnlyRawBytesMoveTheReceiver : Prop :=
  ∀ (i : Instr) (s t : State), isReceiveRow i = false → exec i s = .next t → s.sameRegisters t ∧ t.event = s.event

/-- R7: an `ENCODE` and a `FEED` in either order give the same two results and leave the same receiver. -/
def Obligations.EncodeAndFeedDoNotAffectEachOther : Prop :=
  ∀ (s : State) (d : Byte) (flags : Half) (payload : List Byte), s.cursor < s.cfg.cap →
    ∃ t u v w, exec (.feed d) s = .next t ∧ exec (.encode flags payload) s = .next u ∧
      exec (.encode flags payload) t = .next v ∧ exec (.feed d) u = .next w ∧
      v.result = u.result ∧ w.result = t.result ∧ v.sameRegisters w

/-- The model's own result port and event name are never read: no result and no register depends on them (R139: no result
may depend on the event; log 4, log 12). -/
def Obligations.PortAndTraceAreNeverRead : Prop :=
  ∀ (i : Instr) (s : State) (r : Result) (e : Option Event),
    (∀ t, exec i s = .next t →
      ∃ u, exec i { s with result := r, event := e } = .next u ∧ t.sameRegisters u ∧ u.result = t.result) ∧
    (∀ f, exec i s = .fault f → exec i { s with result := r, event := e } = .fault f) ∧
    (∀ x, exec i s = .refused x → exec i { s with result := r, event := e } = .refused x)

/-- R138: no row goes from the seeking stage to the body stage, and none from the body stage to the header stage. -/
def Obligations.NoOtherStageTransition : Prop :=
  ∀ (i : Instr) (s t : State), exec i s = .next t →
    ¬(s.state = .seekingPreamble ∧ t.state = .readingBody) ∧ ¬(s.state = .readingBody ∧ t.state = .readingHeader)

/-- R135 and R136: a feed returns a frame only when it completes a body; the frame is what the buffer holds; it is marked
damaged exactly when the recomputed checksum differs from the received one, and then the block is lenient; the receiver is
back in the seeking stage with an empty window. -/
def Obligations.FramesComeOnlyFromACompletedBody : Prop :=
  ∀ (s t : State) (d : Byte) (f : Frame), exec (.feed d) s = .next t → t.result = .feed (some f) →
    let e := s.cfg.endian
    let n := (unpack16 e (t.buf.read 2) (t.buf.read 3)).toNat
    s.state = .readingBody ∧ s.cursor + 1 = 5 + n + 4 ∧ ¬(s.unescaping = false ∧ d = 0x1B#8) ∧
    f.flags = unpack16 e (t.buf.read 0) (t.buf.read 1) ∧ f.payload = t.buf.readN 5 n ∧
    (f.damaged = false ↔ frameChecksum (t.buf.readN 0 (5 + n)) =
      unpack32 e (t.buf.read (5 + n)) (t.buf.read (6 + n)) (t.buf.read (7 + n)) (t.buf.read (8 + n))) ∧
    (f.damaged = true → s.cfg.lenient = true) ∧ t.fresh

/-- R51: stale bytes of the buffer never matter. Two states that agree below `cursor` and on the registers give the same
result and again agree, whatever row is executed; a feed names the same event in both, and every row does where the names
before it were the same (the trace name is the model's field, log 12). -/
def Obligations.StaleBufferBytesNeverMatter : Prop :=
  ∀ (i : Instr) (s t s' : State), s.Inv → s.sameLive t → exec i s = .next s' →
    ∃ t', exec i t = .next t' ∧ s'.sameLive t' ∧ t'.result = s'.result ∧
      (isReceiveRow i = true ∨ t.event = s.event → t'.event = s'.event)

/-- R201: a feed that sets a reading receiver back to seeking completes a stage (the fifth header byte, or the last body
byte); the receiver then cannot be told, by any later result, from a freshly reset one with the same configuration; the
configuration is untouched and the buffer is not cleared. -/
def Obligations.ResynchronisedReceiverActsAsReset : Prop :=
  ∀ (s t : State) (d : Byte), s.Inv → s.state ≠ .seekingPreamble → exec (.feed d) s = .next t →
    t.state = .seekingPreamble →
    ¬(s.unescaping = false ∧ d = 0x1B#8) ∧ (s.state = .readingHeader → s.cursor + 1 = 5) ∧
    (s.state = .readingBody →
      s.cursor + 1 = 5 + (unpack16 s.cfg.endian (s.buf.read 2) (s.buf.read 3)).toNat + 4) ∧
    t.fresh ∧ t.cfg = s.cfg ∧ s.storedOnly t s.cursor d ∧
    ∀ bytes : List Byte,
      ∃ frames, framesOf bytes t = some frames ∧ framesOf bytes (State.resetWith s.cfg) = some frames

/-- R140: feeding a sequence in two chunks, with a `NOP` between them, yields the frames of the whole sequence. -/
def Obligations.ChunksAndPausesDoNotMatter : Prop :=
  ∀ (a b : List Byte) (s u p : State) (frames : List Frame),
    feedSeq a s = .next (u, frames) → exec .nop u = .next p →
    framesOf (a ++ b) s = (framesOf b p).map (fun more => frames ++ more)

/-- R52: feeds the host has queued are served one a step, in the order issued, with the state left by the one before. The
queue is the model's (log 5). -/
def Obligations.QueuedFeedsAreServedInOrder : Prop :=
  ∀ (s u : State) (bytes : List Byte) (frames : List Frame), s.input = [] → feedSeq bytes s = .next (u, frames) →
    Host.Core.run Sys2Proof.core bytes.length { s with input := bytes.map (fun d => encode (.feed d)) } = .next u

/-! ### Byte order and the transmit encoder -/

/-- R45: 16-bit fields in both byte orders. -/
def Obligations.HalfWordByteOrder : Prop :=
  (∀ v : Half, pack16 .little v = [v.extractLsb' 0 8, v.extractLsb' 8 8] ∧
    pack16 .big v = [v.extractLsb' 8 8, v.extractLsb' 0 8]) ∧
  (∀ b0 b1 : Byte, (unpack16 .little b0 b1).toNat = b0.toNat + 256 * b1.toNat ∧
    (unpack16 .big b0 b1).toNat = 256 * b0.toNat + b1.toNat) ∧
  (∀ (e : Endian) (v : Half) (b0 b1 : Byte), pack16 e v = [b0, b1] → unpack16 e b0 b1 = v) ∧
  (∀ (s : State) (a : Nat), s.rd16 a = unpack16 s.cfg.endian (s.buf.read a) (s.buf.read (a + 1))) ∧
  pack16 .little 0x007B#16 = [0x7B#8, 0x00#8] ∧ pack16 .big 0x007B#16 = [0x00#8, 0x7B#8]

/-- R46: 32-bit fields in both byte orders. -/
def Obligations.WordByteOrder : Prop :=
  (∀ v : Word,
    pack32 .little v = [v.extractLsb' 0 8, v.extractLsb' 8 8, v.extractLsb' 16 8, v.extractLsb' 24 8] ∧
    pack32 .big v = [v.extractLsb' 24 8, v.extractLsb' 16 8, v.extractLsb' 8 8, v.extractLsb' 0 8]) ∧
  (∀ b0 b1 b2 b3 : Byte,
    (unpack32 .little b0 b1 b2 b3).toNat = b0.toNat + 2 ^ 8 * b1.toNat + 2 ^ 16 * b2.toNat + 2 ^ 24 * b3.toNat ∧
    (unpack32 .big b0 b1 b2 b3).toNat = 2 ^ 24 * b0.toNat + 2 ^ 16 * b1.toNat + 2 ^ 8 * b2.toNat + b3.toNat) ∧
  (∀ (e : Endian) (v : Word) (b0 b1 b2 b3 : Byte), pack32 e v = [b0, b1, b2, b3] → unpack32 e b0 b1 b2 b3 = v) ∧
  (∀ (s : State) (a : Nat), s.rd32 a =
    unpack32 s.cfg.endian (s.buf.read a) (s.buf.read (a + 1)) (s.buf.read (a + 2)) (s.buf.read (a + 3))) ∧
  pack32 .little 0xAA55AA55#32 = [0x55#8, 0xAA#8, 0x55#8, 0xAA#8] ∧
  pack32 .big 0xAA55AA55#32 = [0xAA#8, 0x55#8, 0xAA#8, 0x55#8] ∧
  pack32 .little 0xAA65F1BF#32 = [0xBF#8, 0xF1#8, 0x65#8, 0xAA#8]

/-- R150: the five header bytes, for every flags and length, with the rule's corner cases and examples. -/
def Obligations.HeaderPackIsFlagsLengthAndChecksum : Prop :=
  (∀ (e : Endian) (flags n : Half) (b0 b1 b2 b3 : Byte), pack16 e flags ++ pack16 e n = [b0, b1, b2, b3] →
    headerPack e flags n = [b0, b1, b2, b3, b0 ^^^ b1 ^^^ b2 ^^^ b3]) ∧
  (∀ e : Endian, headerPack e 0#16 0#16 = [0#8, 0#8, 0#8, 0#8, 0#8] ∧
    headerPack e 0xFFFF#16 0xFFFF#16 = [0xFF#8, 0xFF#8, 0xFF#8, 0xFF#8, 0#8]) ∧
  headerPack .little 0x007B#16 0#16 = [0x7B#8, 0#8, 0#8, 0#8, 0x7B#8] ∧
  headerPack .little 0x00AA#16 1#16 = [0xAA#8, 0#8, 1#8, 0#8, 0xAB#8] ∧
  headerPack .big 0x007B#16 0#16 = [0#8, 0x7B#8, 0#8, 0#8, 0x7B#8] ∧
  headerPack .big 0x00AA#16 1#16 = [0#8, 0xAA#8, 0#8, 1#8, 0xAB#8]

/-- R151 and R152: `ENCODE`, code 0010, always completes and changes nothing but the result: a payload longer than `MAXLEN`
gives `LengthExceeded` and no bytes, any other (`MAXLEN` itself included) the raw preamble and the escaped header, payload
and checksum; 13 bytes for an empty payload and no reserved content byte; R151's examples (the recommended preamble). -/
def Obligations.EncodeGivesTheFrameOrLengthExceeded : Prop :=
  (∀ (flags : Half) (payload : List Byte), opCode (.encode flags payload) = some 0b0010#4) ∧
  (∀ (c : Cfg) (flags : Half), (∀ b ∈ frameContent c.endian flags [], b ≠ 0xAA#8 ∧ b ≠ 0x1B#8) →
    (frameWire c flags []).length = 13) ∧
  (∀ c : Cfg, encodeFrame c 0#16 [] = .encoded (pack32 c.endian c.preamble ++ List.replicate 9 0x00#8)) ∧
  (encodeFrame { endian := .little, preamble := 0xAA55AA55#32 } 123#16 [] =
      .encoded [0x55#8, 0xAA#8, 0x55#8, 0xAA#8, 0x7B#8, 0x00#8, 0x00#8, 0x00#8, 0x7B#8, 0x6A#8, 0x79#8, 0xD5#8, 0x49#8] ∧
    encodeFrame { endian := .little, preamble := 0xAA55AA55#32 } 0x00AA#16 [0x1B#8] =
      .encoded [0x55#8, 0xAA#8, 0x55#8, 0xAA#8, 0x1B#8, 0xAA#8, 0x00#8, 0x01#8, 0x00#8, 0xAB#8, 0x1B#8, 0x1B#8, 0x23#8,
        0xF9#8, 0xAD#8, 0xC7#8] ∧
    encodeFrame { endian := .little, preamble := 0xAA55AA55#32 } 10#16 [] =
      .encoded [0x55#8, 0xAA#8, 0x55#8, 0xAA#8, 0x0A#8, 0x00#8, 0x00#8, 0x00#8, 0x0A#8, 0xBF#8, 0xF1#8, 0x65#8, 0x1B#8,
        0xAA#8]) ∧
  ∀ (s : State) (flags : Half) (payload : List Byte),
    (s.cfg.maxLen.toNat < payload.length →
      exec (.encode flags payload) s = .next { s with result := .lengthExceeded payload.length }) ∧
    (payload.length ≤ s.cfg.maxLen.toNat →
      let e := s.cfg.endian
      let h := headerPack e flags (BitVec.ofNat 16 payload.length)
      let crc := frameChecksum (h ++ payload)
      let wire := pack32 e s.cfg.preamble ++ escapeBytes (h ++ payload ++ pack32 e crc)
      exec (.encode flags payload) s = .next { s with result := .encoded wire })

/-- R67: the content of a frame, offset by offset, in both byte orders. -/
def Obligations.ContentLayout : Prop :=
  ∀ (flags n : Half) (payload : List Byte), n.toNat = payload.length →
    let hck := flags.extractLsb' 0 8 ^^^ flags.extractLsb' 8 8 ^^^ n.extractLsb' 0 8 ^^^ n.extractLsb' 8 8
    let little := frameContent .little flags payload
    let big := frameContent .big flags payload
    let crcL := frameChecksum (little.take (5 + n.toNat))
    let crcB := frameChecksum (big.take (5 + n.toNat))
    little.length = 9 + n.toNat ∧ big.length = 9 + n.toNat ∧
    little[0]? = some (flags.extractLsb' 0 8) ∧ big[0]? = some (flags.extractLsb' 8 8) ∧
    little[1]? = some (flags.extractLsb' 8 8) ∧ big[1]? = some (flags.extractLsb' 0 8) ∧
    little[2]? = some (n.extractLsb' 0 8) ∧ big[2]? = some (n.extractLsb' 8 8) ∧
    little[3]? = some (n.extractLsb' 8 8) ∧ big[3]? = some (n.extractLsb' 0 8) ∧
    little[4]? = some hck ∧ big[4]? = some hck ∧
    (∀ i, i < n.toNat → little[5 + i]? = payload[i]? ∧ big[5 + i]? = payload[i]?) ∧
    little[5 + n.toNat]? = some (crcL.extractLsb' 0 8) ∧ big[5 + n.toNat]? = some (crcB.extractLsb' 24 8) ∧
    little[6 + n.toNat]? = some (crcL.extractLsb' 8 8) ∧ big[6 + n.toNat]? = some (crcB.extractLsb' 16 8) ∧
    little[7 + n.toNat]? = some (crcL.extractLsb' 16 8) ∧ big[7 + n.toNat]? = some (crcB.extractLsb' 8 8) ∧
    little[8 + n.toNat]? = some (crcL.extractLsb' 24 8) ∧ big[8 + n.toNat]? = some (crcB.extractLsb' 0 8)

/-- R71 and R153: the length of a frame on the wire and its bounds. -/
def Obligations.WireLength : Prop :=
  ∀ (c : Cfg) (flags : Half) (payload wire : List Byte), encodeFrame c flags payload = .encoded wire →
    wire.length = 4 + 9 + payload.length +
      (frameContent c.endian flags payload).countP (fun b => b == 0xAA#8 || b == 0x1B#8) ∧
    13 + payload.length ≤ wire.length ∧ wire.length ≤ 22 + 2 * payload.length

/-- The field rows complete: each puts its bytes on the wire, escaped but for the preamble, and changes nothing else (R61 to
R66). A preamble field that is not `PREAMBLE` and a length above `MAXLEN` are outside the rows' ranges and are refused by name
(log 11). -/
def Obligations.FieldRowsComplete : Prop :=
  (∀ (s : State) (p : Word), ofImage32 s.cfg.endian p = s.cfg.preamble →
    exec (.fieldPreamble p) s = .next { s with result := .bytes (wordBytes p) } ∧
    pack32 s.cfg.endian s.cfg.preamble = wordBytes p) ∧
  (∀ (s : State) (f : Half), exec (.fieldFlags f) s = .next { s with result := .bytes (escapeBytes (halfBytes f)) }) ∧
  (∀ (s : State) (n : Half), (ofImage16 s.cfg.endian n).toNat ≤ s.cfg.maxLen.toNat →
    exec (.fieldLength n) s = .next { s with result := .bytes (escapeBytes (halfBytes n)) }) ∧
  (∀ (s : State) (h : Byte), exec (.fieldHck h) s = .next { s with result := .bytes (escapeByte h) }) ∧
  (∀ (s : State) (y : Byte), exec (.fieldPayloadByte y) s = .next { s with result := .bytes (escapeByte y) }) ∧
  (∀ (s : State) (c : Word), exec (.fieldCrc32 c) s = .next { s with result := .bytes (escapeBytes (wordBytes c)) }) ∧
  (∀ (s : State) (p : Word), ofImage32 s.cfg.endian p ≠ s.cfg.preamble →
    exec (.fieldPreamble p) s = .refused .operandOutOfRange) ∧
  (∀ (s : State) (n : Half), s.cfg.maxLen.toNat < (ofImage16 s.cfg.endian n).toNat →
    exec (.fieldLength n) s = .refused .operandOutOfRange)

/-- R60: the bytes `ENCODE` gives are the bytes of its fields, in order, and every field row completes. -/
def Obligations.EncodeIsItsFieldsInOrder : Prop :=
  ∀ (s : State) (flags : Half) (payload : List Byte), payload.length ≤ s.cfg.maxLen.toNat →
    (∀ i ∈ fieldsOf s.cfg flags payload, ∃ t, exec i s = .next t) ∧
    let wire := (fieldsOf s.cfg flags payload).flatMap (fun i => deliveredBytes (exec i s))
    exec (.encode flags payload) s = .next { s with result := .encoded wire }

/-- R212: when some byte of the preamble's wire image but the first is `MARKER` and the one before it is not `ESC`, no four
consecutive bytes of escaped content equal the image. The recommended value meets the condition in both byte orders, at
`i = 1` and `i = 2`; a value that does not meet it can be imitated. -/
def Obligations.EscapedContentCannotImitateThePreamble : Prop :=
  (∀ (e : Endian) (p : Word) (i : Nat), 1 ≤ i → i ≤ 3 → (pack32 e p)[i]? = some 0xAA#8 →
    (pack32 e p)[i - 1]? ≠ some 0x1B#8 →
    ∀ (content : List Byte) (k : Nat), ((escapeBytes content).drop k).take 4 ≠ pack32 e p) ∧
  (pack32 .little 0xAA55AA55#32)[1]? = some 0xAA#8 ∧ (pack32 .little 0xAA55AA55#32)[0]? ≠ some 0x1B#8 ∧
  (pack32 .big 0xAA55AA55#32)[2]? = some 0xAA#8 ∧ (pack32 .big 0xAA55AA55#32)[1]? ≠ some 0x1B#8 ∧
  ((escapeBytes [0xAA#8, 0x00#8, 0x00#8, 0x00#8]).drop 1).take 4 = pack32 .big 0xAA000000#32

/-! ### Results -/

/-- The result and status rows complete: each hands its result to the host and changes nothing else (R74). A damaged frame
needs a lenient block (R136), a frame's payload is at most `MAXLEN` long (R155), and only a length above `MAXLEN` is exceeded
(R152); outside those ranges the rows are refused by name. That the rows are steps of their own is the model's choice (log 10). -/
def Obligations.ResultRowsComplete : Prop :=
  (∀ s : State, exec .resNone s = .next { s with result := .feed none }) ∧
  (∀ (s : State) (flags : Half) (payload : List Byte), payload.length ≤ s.cfg.maxLen.toNat →
    exec (.resFrameValid flags payload) s =
      .next { s with result := .feed (some { flags := flags, payload := payload, damaged := false }) }) ∧
  (∀ (s : State) (flags : Half) (payload : List Byte), payload.length ≤ s.cfg.maxLen.toNat → s.cfg.lenient = true →
    exec (.resFrameDamaged flags payload) s =
      .next { s with result := .feed (some { flags := flags, payload := payload, damaged := true }) }) ∧
  (∀ (s : State) (bytes : List Byte), exec (.stOk bytes) s = .next { s with result := .encoded bytes }) ∧
  (∀ (s : State) (n : Word), s.cfg.maxLen.toNat < n.toNat →
    exec (.stLengthExceeded n) s = .next { s with result := .lengthExceeded n.toNat }) ∧
  (∀ (s : State) (flags : Half) (payload : List Byte), s.cfg.maxLen.toNat < payload.length →
    exec (.resFrameValid flags payload) s = .refused .operandOutOfRange) ∧
  (∀ (s : State) (flags : Half) (payload : List Byte),
    s.cfg.maxLen.toNat < payload.length ∨ s.cfg.lenient = false →
    exec (.resFrameDamaged flags payload) s = .refused .operandOutOfRange) ∧
  (∀ (s : State) (n : Word), n.toNat ≤ s.cfg.maxLen.toNat →
    exec (.stLengthExceeded n) s = .refused .operandOutOfRange)

/-- Every result of `FEED` and of `ENCODE` is carried by a row of the table, with the code R74 gives it, and that row delivers
just that result. That a result row is a step that delivers its result is the model's choice (log 10); so are the code's
place in the first byte and the 32-bit width of the offending length in its row, hence the bound (log 6). -/
def Obligations.EveryResultHasItsRow : Prop :=
  (∀ (s t : State) (d : Byte), s.Inv → exec (.feed d) s = .next t →
    ∃ r i, t.result = .feed r ∧ resultRow t.result = some i ∧ exec i t = .next t ∧
      (encodeBytes i).head? = some (0#6 ++ resCode r) ∧ resCode r ≠ 0b11#2) ∧
  (∀ (s t : State) (flags : Half) (payload : List Byte), payload.length < 2 ^ 32 →
    exec (.encode flags payload) s = .next t →
    ∃ i st, resultRow t.result = some i ∧ exec i t = .next t ∧ stCode t.result = some st ∧
      (encodeBytes i).head? = some (0#7 ++ st))

/-! ### Round trip and the host -/

/-- R142: for every configuration, flags and payload of at most `MAXLEN` bytes, feeding the bytes of `ENCODE` to a receiver
that seeks with cursor 0 returns exactly one result, on the last byte: the frame, undamaged; and the receiver is again seeking
with cursor 0 and the flag 0. The same from any seeking state of the invariants, when no window of four bytes that begins in
the last three stored ones and ends before the frame's own preamble does reads as the preamble. -/
def Obligations.RoundTrip : Prop :=
  (∀ (s : State) (flags : Half) (payload : List Byte), s.Inv → s.state = .seekingPreamble →
    payload.length ≤ s.cfg.maxLen.toNat →
    noEarlyMatch s.cfg (s.buf.readN (s.cursor - min s.cursor 3) (min s.cursor 3)) →
    ∃ u v, feedSeq (frameWire s.cfg flags payload) s =
        .next (u, [{ flags := flags, payload := payload, damaged := false }]) ∧
      feedSeq (frameWire s.cfg flags payload).dropLast s = .next (v, []) ∧ u.fresh) ∧
  ∀ (s : State) (flags : Half) (payload : List Byte), s.fresh → payload.length ≤ s.cfg.maxLen.toNat →
    ∃ (t : State) (wire : List Byte) (u v : State),
      exec (.encode flags payload) s = .next t ∧ t.result = .encoded wire ∧
      feedSeq wire s = .next (u, [{ flags := flags, payload := payload, damaged := false }]) ∧
      feedSeq wire.dropLast s = .next (v, []) ∧
      u.result = .feed (some { flags := flags, payload := payload, damaged := false }) ∧ u.fresh ∧ u.cfg = s.cfg

/-- R143: garbage followed by a well-formed frame still yields exactly that one frame, when no window of four bytes that ends
before the frame's own preamble does reads as the preamble. Its limit: with the recommended preamble in LITTLE order,
garbage that ends in `55 AA` makes an early match and the frame is lost (V4.6). -/
def Obligations.ResynchronisationAfterGarbage : Prop :=
  (∃ u, feedSeq ([0x13#8, 0x55#8, 0xAA#8] ++ frameWire { endian := .little, preamble := 0xAA55AA55#32 } 123#16 [])
      (State.resetWith { endian := .little, preamble := 0xAA55AA55#32 }) = .next (u, [])) ∧
  ∀ (s : State) (garbage : List Byte) (flags : Half) (payload : List Byte), s.fresh →
    payload.length ≤ s.cfg.maxLen.toNat → noEarlyMatch s.cfg garbage →
    ∃ u, feedSeq (garbage ++ frameWire s.cfg flags payload) s =
        .next (u, [{ flags := flags, payload := payload, damaged := false }]) ∧ u.fresh

/-- R162 to R164: `WRITE_FRAME` of a payload of at most `MAXLEN` bytes appends the frame's bytes to a sink that delivers and
succeeds; of a sink that fails it hands on the failure, with no more than the first of those bytes delivered; of a longer
payload it fails and writes no byte, whatever the sink would do; in every case the receiver is untouched. `READ_FRAME` of
a source that delivers the frame's bytes, at a fresh receiver of the same configuration, gives the frame, and the bytes
after it stay in the source. Source and sink as lists, and the sink's answer as an argument, are the model's choice
(log 18). -/
def Obligations.ReadFrameGivesWhatWriteFrameWrote : Prop :=
  ∀ (s : State) (flags : Half) (payload sink : List Byte),
    (payload.length ≤ s.cfg.maxLen.toNat →
      ∃ (wire : List Byte) (t : State), s.sameRegisters t ∧ t.event = s.event ∧ t.result = .encoded wire ∧
        writeFrame flags payload .delivers sink s = .next { status := .ok, sink := sink ++ wire, block := t } ∧
        (∀ after, writeFrame flags payload (.fails after) sink s =
          .next { status := .sinkFailed, sink := sink ++ wire.take after, block := t }) ∧
        (∀ r : State, r.fresh → r.cfg = s.cfg → ∀ rest, ∃ u, u.fresh ∧ readFrame (wire ++ rest) r =
          .next { frame := some { flags := flags, payload := payload, damaged := false }, source := rest, block := u })) ∧
    (s.cfg.maxLen.toNat < payload.length →
      ∃ t : State, s.sameRegisters t ∧ t.event = s.event ∧ ∀ answer, writeFrame flags payload answer sink s =
        .next { status := .lengthExceeded payload.length, sink := sink, block := t })

/-- R165 and R168: an end of stream changes nothing in the block; a `READ_FRAME` that ran out of bytes and a later one behave
as one over the bytes together. -/
def Obligations.EndOfStreamChangesNothing : Prop :=
  (∀ s : State, readFrame [] s = .next { frame := none, source := [], block := s }) ∧
  (∀ (a b : List Byte) (s u : State),
    readFrame a s = .next { frame := none, source := [], block := u } → readFrame (a ++ b) s = readFrame b u)
end

