-- ==== Sys2Proof/Laws/State.lean ====
section
/-! SUPPORT. One lemma per field of `State` per named update (Machine/Ops.lean, Machine/Flags.lean), and the values after
reset. -/

namespace Sys2Proof.Machine

/-! ### `State.storeAtCursor` -/

@[simp] theorem State.storeAtCursor_state (s : State) (d : Byte) : (s.storeAtCursor d).state = s.state := rfl
@[simp] theorem State.storeAtCursor_cursor (s : State) (d : Byte) : (s.storeAtCursor d).cursor = s.cursor := rfl
@[simp] theorem State.storeAtCursor_unescaping (s : State) (d : Byte) : (s.storeAtCursor d).unescaping = s.unescaping := rfl
@[simp] theorem State.storeAtCursor_buf (s : State) (d : Byte) : (s.storeAtCursor d).buf = s.buf.write s.cursor d := rfl
@[simp] theorem State.storeAtCursor_cfg (s : State) (d : Byte) : (s.storeAtCursor d).cfg = s.cfg := rfl
@[simp] theorem State.storeAtCursor_result (s : State) (d : Byte) : (s.storeAtCursor d).result = s.result := rfl
@[simp] theorem State.storeAtCursor_event (s : State) (d : Byte) : (s.storeAtCursor d).event = s.event := rfl
@[simp] theorem State.storeAtCursor_input (s : State) (d : Byte) : (s.storeAtCursor d).input = s.input := rfl

/-! ### `State.advance` -/

@[simp] theorem State.advance_state (s : State) : s.advance.state = s.state := rfl
@[simp] theorem State.advance_cursor (s : State) : s.advance.cursor = s.cursor + 1 := rfl
@[simp] theorem State.advance_unescaping (s : State) : s.advance.unescaping = s.unescaping := rfl
@[simp] theorem State.advance_buf (s : State) : s.advance.buf = s.buf := rfl
@[simp] theorem State.advance_cfg (s : State) : s.advance.cfg = s.cfg := rfl
@[simp] theorem State.advance_result (s : State) : s.advance.result = s.result := rfl
@[simp] theorem State.advance_event (s : State) : s.advance.event = s.event := rfl
@[simp] theorem State.advance_input (s : State) : s.advance.input = s.input := rfl
@[simp] theorem State.advance_rd16 (s : State) (x : Nat) : s.advance.rd16 x = s.rd16 x := rfl
@[simp] theorem State.advance_rd32 (s : State) (x : Nat) : s.advance.rd32 x = s.rd32 x := rfl
@[simp] theorem State.advance_rxLength (s : State) : s.advance.rxLength = s.rxLength := rfl

/-! ### `State.startHeader` -/

@[simp] theorem State.startHeader_state (s : State) : s.startHeader.state = .readingHeader := rfl
@[simp] theorem State.startHeader_cursor (s : State) : s.startHeader.cursor = 0 := rfl
@[simp] theorem State.startHeader_unescaping (s : State) : s.startHeader.unescaping = s.unescaping := rfl
@[simp] theorem State.startHeader_buf (s : State) : s.startHeader.buf = s.buf := rfl
@[simp] theorem State.startHeader_cfg (s : State) : s.startHeader.cfg = s.cfg := rfl
@[simp] theorem State.startHeader_result (s : State) : s.startHeader.result = s.result := rfl
@[simp] theorem State.startHeader_event (s : State) : s.startHeader.event = s.event := rfl
@[simp] theorem State.startHeader_input (s : State) : s.startHeader.input = s.input := rfl
@[simp] theorem State.startHeader_rd16 (s : State) (x : Nat) : s.startHeader.rd16 x = s.rd16 x := rfl
@[simp] theorem State.startHeader_rd32 (s : State) (x : Nat) : s.startHeader.rd32 x = s.rd32 x := rfl
@[simp] theorem State.startHeader_rxLength (s : State) : s.startHeader.rxLength = s.rxLength := rfl

/-! ### `State.startBody` -/

@[simp] theorem State.startBody_state (s : State) : s.startBody.state = .readingBody := rfl
@[simp] theorem State.startBody_cursor (s : State) : s.startBody.cursor = s.cursor := rfl
@[simp] theorem State.startBody_unescaping (s : State) : s.startBody.unescaping = s.unescaping := rfl
@[simp] theorem State.startBody_buf (s : State) : s.startBody.buf = s.buf := rfl
@[simp] theorem State.startBody_cfg (s : State) : s.startBody.cfg = s.cfg := rfl
@[simp] theorem State.startBody_result (s : State) : s.startBody.result = s.result := rfl
@[simp] theorem State.startBody_event (s : State) : s.startBody.event = s.event := rfl
@[simp] theorem State.startBody_input (s : State) : s.startBody.input = s.input := rfl
@[simp] theorem State.startBody_rd16 (s : State) (x : Nat) : s.startBody.rd16 x = s.rd16 x := rfl
@[simp] theorem State.startBody_rd32 (s : State) (x : Nat) : s.startBody.rd32 x = s.rd32 x := rfl
@[simp] theorem State.startBody_rxLength (s : State) : s.startBody.rxLength = s.rxLength := rfl

/-! ### `State.resync` -/

@[simp] theorem State.resync_state (s : State) : s.resync.state = .seekingPreamble := rfl
@[simp] theorem State.resync_cursor (s : State) : s.resync.cursor = 0 := rfl
@[simp] theorem State.resync_unescaping (s : State) : s.resync.unescaping = s.unescaping := rfl
@[simp] theorem State.resync_buf (s : State) : s.resync.buf = s.buf := rfl
@[simp] theorem State.resync_cfg (s : State) : s.resync.cfg = s.cfg := rfl
@[simp] theorem State.resync_result (s : State) : s.resync.result = s.result := rfl
@[simp] theorem State.resync_event (s : State) : s.resync.event = s.event := rfl
@[simp] theorem State.resync_input (s : State) : s.resync.input = s.input := rfl
@[simp] theorem State.resync_rd16 (s : State) (x : Nat) : s.resync.rd16 x = s.rd16 x := rfl
@[simp] theorem State.resync_rd32 (s : State) (x : Nat) : s.resync.rd32 x = s.rd32 x := rfl
@[simp] theorem State.resync_rxLength (s : State) : s.resync.rxLength = s.rxLength := rfl

/-! ### `State.slide` -/

@[simp] theorem State.slide_state (s : State) : s.slide.state = s.state := rfl
@[simp] theorem State.slide_cursor (s : State) : s.slide.cursor = 4 := rfl
@[simp] theorem State.slide_unescaping (s : State) : s.slide.unescaping = s.unescaping := rfl
@[simp] theorem State.slide_buf (s : State) : s.slide.buf = s.buf.writeN 0 (s.buf.readN (s.cfg.cap - 4) 4) := rfl
@[simp] theorem State.slide_cfg (s : State) : s.slide.cfg = s.cfg := rfl
@[simp] theorem State.slide_result (s : State) : s.slide.result = s.result := rfl
@[simp] theorem State.slide_event (s : State) : s.slide.event = s.event := rfl
@[simp] theorem State.slide_input (s : State) : s.slide.input = s.input := rfl

/-! ### `State.respond` -/

@[simp] theorem State.respond_state (s : State) (r : Result) : (s.respond r).state = s.state := rfl
@[simp] theorem State.respond_cursor (s : State) (r : Result) : (s.respond r).cursor = s.cursor := rfl
@[simp] theorem State.respond_unescaping (s : State) (r : Result) : (s.respond r).unescaping = s.unescaping := rfl
@[simp] theorem State.respond_buf (s : State) (r : Result) : (s.respond r).buf = s.buf := rfl
@[simp] theorem State.respond_cfg (s : State) (r : Result) : (s.respond r).cfg = s.cfg := rfl
@[simp] theorem State.respond_result (s : State) (r : Result) : (s.respond r).result = r := rfl
@[simp] theorem State.respond_event (s : State) (r : Result) : (s.respond r).event = s.event := rfl
@[simp] theorem State.respond_input (s : State) (r : Result) : (s.respond r).input = s.input := rfl
@[simp] theorem State.respond_rd16 (s : State) (r : Result) (x : Nat) : (s.respond r).rd16 x = s.rd16 x := rfl
@[simp] theorem State.respond_rd32 (s : State) (r : Result) (x : Nat) : (s.respond r).rd32 x = s.rd32 x := rfl
@[simp] theorem State.respond_rxLength (s : State) (r : Result) : (s.respond r).rxLength = s.rxLength := rfl

/-! ### `State.note` -/

@[simp] theorem State.note_state (s : State) (e : Event) : (s.note e).state = s.state := rfl
@[simp] theorem State.note_cursor (s : State) (e : Event) : (s.note e).cursor = s.cursor := rfl
@[simp] theorem State.note_unescaping (s : State) (e : Event) : (s.note e).unescaping = s.unescaping := rfl
@[simp] theorem State.note_buf (s : State) (e : Event) : (s.note e).buf = s.buf := rfl
@[simp] theorem State.note_cfg (s : State) (e : Event) : (s.note e).cfg = s.cfg := rfl
@[simp] theorem State.note_result (s : State) (e : Event) : (s.note e).result = s.result := rfl
@[simp] theorem State.note_event (s : State) (e : Event) : (s.note e).event = some e := rfl
@[simp] theorem State.note_input (s : State) (e : Event) : (s.note e).input = s.input := rfl
@[simp] theorem State.note_rd16 (s : State) (e : Event) (x : Nat) : (s.note e).rd16 x = s.rd16 x := rfl
@[simp] theorem State.note_rd32 (s : State) (e : Event) (x : Nat) : (s.note e).rd32 x = s.rd32 x := rfl
@[simp] theorem State.note_rxLength (s : State) (e : Event) : (s.note e).rxLength = s.rxLength := rfl

/-! ### `State.setUnescaping` -/

@[simp] theorem State.setUnescaping_state (s : State) : s.setUnescaping.state = s.state := rfl
@[simp] theorem State.setUnescaping_cursor (s : State) : s.setUnescaping.cursor = s.cursor := rfl
@[simp] theorem State.setUnescaping_unescaping (s : State) : s.setUnescaping.unescaping = true := rfl
@[simp] theorem State.setUnescaping_buf (s : State) : s.setUnescaping.buf = s.buf := rfl
@[simp] theorem State.setUnescaping_cfg (s : State) : s.setUnescaping.cfg = s.cfg := rfl
@[simp] theorem State.setUnescaping_result (s : State) : s.setUnescaping.result = s.result := rfl
@[simp] theorem State.setUnescaping_event (s : State) : s.setUnescaping.event = s.event := rfl
@[simp] theorem State.setUnescaping_input (s : State) : s.setUnescaping.input = s.input := rfl
@[simp] theorem State.setUnescaping_rd16 (s : State) (x : Nat) : s.setUnescaping.rd16 x = s.rd16 x := rfl
@[simp] theorem State.setUnescaping_rd32 (s : State) (x : Nat) : s.setUnescaping.rd32 x = s.rd32 x := rfl
@[simp] theorem State.setUnescaping_rxLength (s : State) : s.setUnescaping.rxLength = s.rxLength := rfl

/-! ### `State.clearUnescaping` -/

@[simp] theorem State.clearUnescaping_state (s : State) : s.clearUnescaping.state = s.state := rfl
@[simp] theorem State.clearUnescaping_cursor (s : State) : s.clearUnescaping.cursor = s.cursor := rfl
@[simp] theorem State.clearUnescaping_unescaping (s : State) : s.clearUnescaping.unescaping = false := rfl
@[simp] theorem State.clearUnescaping_buf (s : State) : s.clearUnescaping.buf = s.buf := rfl
@[simp] theorem State.clearUnescaping_cfg (s : State) : s.clearUnescaping.cfg = s.cfg := rfl
@[simp] theorem State.clearUnescaping_result (s : State) : s.clearUnescaping.result = s.result := rfl
@[simp] theorem State.clearUnescaping_event (s : State) : s.clearUnescaping.event = s.event := rfl
@[simp] theorem State.clearUnescaping_input (s : State) : s.clearUnescaping.input = s.input := rfl
@[simp] theorem State.clearUnescaping_rd16 (s : State) (x : Nat) : s.clearUnescaping.rd16 x = s.rd16 x := rfl
@[simp] theorem State.clearUnescaping_rd32 (s : State) (x : Nat) : s.clearUnescaping.rd32 x = s.rd32 x := rfl
@[simp] theorem State.clearUnescaping_rxLength (s : State) : s.clearUnescaping.rxLength = s.rxLength := rfl

/-! ### Reset -/

@[simp] theorem State.resetWith_state (c : Cfg) : (State.resetWith c).state = .seekingPreamble := rfl
@[simp] theorem State.resetWith_cursor (c : Cfg) : (State.resetWith c).cursor = 0 := rfl
@[simp] theorem State.resetWith_unescaping (c : Cfg) : (State.resetWith c).unescaping = false := rfl
@[simp] theorem State.resetWith_buf (c : Cfg) : (State.resetWith c).buf = [] := rfl
@[simp] theorem State.resetWith_cfg (c : Cfg) : (State.resetWith c).cfg = c := rfl
@[simp] theorem State.resetWith_result (c : Cfg) : (State.resetWith c).result = .nothing := rfl
@[simp] theorem State.resetWith_event (c : Cfg) : (State.resetWith c).event = none := rfl
@[simp] theorem State.resetWith_input (c : Cfg) : (State.resetWith c).input = [] := rfl

end Sys2Proof.Machine
end

