-- ==== Sys2Proof/Laws/Memory.lean ====
section
/-! SUPPORT. The buffer: read after write, and every operation keeps the canonical form. -/

namespace Sys2Proof.Machine

@[simp] theorem Memory.read_nil (a : Nat) : Memory.read [] a = memDefault := rfl

theorem Memory.read_cons (k : Nat) (v : Byte) (m : Memory) (a : Nat) :
    Memory.read ((k, v) :: m) a = if a = k then v else Memory.read m a := rfl

theorem Memory.read_filter_other (m : Memory) {a x : Nat} (h : x ≠ a) :
    Memory.read (m.filter (fun c => c.1 != a)) x = Memory.read m x := by
  induction m with
  | nil => rfl
  | cons c m ih =>
    obtain ⟨k, v⟩ := c
    by_cases hk : k = a
    · subst hk
      simp [Memory.read_cons, h, ih]
    · simp [Memory.read_cons, hk, ih]

theorem Memory.read_filter_same (m : Memory) (a : Nat) :
    Memory.read (m.filter (fun c => c.1 != a)) a = memDefault := by
  induction m with
  | nil => rfl
  | cons c m ih =>
    obtain ⟨k, v⟩ := c
    by_cases hk : k = a
    · subst hk
      simpa using ih
    · have hk' : ¬a = k := fun h => hk h.symm
      simp [Memory.read_cons, hk, hk', ih]

theorem Memory.read_insertCell (m : Memory) (a : Nat) (b : Byte) (x : Nat)
    (hm : ∀ c ∈ m, c.1 ≠ a) :
    Memory.read (Memory.insertCell a b m) x = if x = a then b else Memory.read m x := by
  induction m with
  | nil => simp [Memory.insertCell, Memory.read_cons]
  | cons c m ih =>
    obtain ⟨k, v⟩ := c
    have hk : k ≠ a := hm (k, v) (by simp)
    have ih := ih (fun c hc => hm c (by simp [hc]))
    by_cases hlt : a < k
    · simp [Memory.insertCell, hlt, Memory.read_cons]
    · simp only [Memory.insertCell, hlt, if_false, Memory.read_cons, ih]
      by_cases hx : x = k
      · subst hx
        simp [hk]
      · simp [hx]

/-- Read after write, for every index and every list of cells. -/
theorem Memory.read_write (m : Memory) (a : Nat) (b : Byte) (x : Nat) :
    (m.write a b).read x = if x = a then b else m.read x := by
  have hm : ∀ c ∈ m.filter (fun c => c.1 != a), c.1 ≠ a := by
    intro c hc
    simpa using (List.mem_filter.mp hc).2
  by_cases hb : b = memDefault
  · by_cases hx : x = a
    · subst hx
      simp [Memory.write, hb, Memory.read_filter_same]
    · simp [Memory.write, hb, hx, Memory.read_filter_other m hx]
  · by_cases hx : x = a
    · simp [Memory.write, hb, Memory.read_insertCell _ _ _ _ hm, hx]
    · simp [Memory.write, hb, Memory.read_insertCell _ _ _ _ hm, hx, Memory.read_filter_other m hx]

@[simp] theorem Memory.read_write_same (m : Memory) (a : Nat) (b : Byte) : (m.write a b).read a = b := by
  simp [Memory.read_write]

theorem Memory.read_write_other (m : Memory) {a x : Nat} (b : Byte) (h : x ≠ a) :
    (m.write a b).read x = m.read x := by
  simp [Memory.read_write, h]

/-- What `MemWrite` leaves at an index. -/
theorem Memory.read_writeN (m : Memory) (a : Nat) (s : List Byte) (x : Nat) :
    (m.writeN a s).read x = if a ≤ x ∧ x < a + s.length then s.getD (x - a) 0 else m.read x := by
  induction s generalizing m a with
  | nil =>
    have : ¬(a ≤ x ∧ x < a) := by omega
    simp [Memory.writeN, this]
  | cons b s ih =>
    simp only [Memory.writeN, ih, Memory.read_write, List.length_cons]
    by_cases hx : x = a
    · subst hx
      have : ¬(x + 1 ≤ x) := by omega
      simp [this]
    · by_cases hin : a + 1 ≤ x ∧ x < a + 1 + s.length
      · have h2 : a ≤ x ∧ x < a + (s.length + 1) := by omega
        obtain ⟨n, rfl⟩ : ∃ n, x = a + 1 + n := ⟨x - (a + 1), by omega⟩
        have e1 : a + 1 + n - (a + 1) = n := by omega
        have e2 : a + 1 + n - a = n + 1 := by omega
        rw [if_pos hin, if_pos h2, e1, e2, List.getD_cons_succ]
      · have h2 : ¬(a ≤ x ∧ x < a + (s.length + 1)) := by omega
        rw [if_neg hin, if_neg h2, if_neg hx]

@[simp] theorem Memory.length_readN (m : Memory) (a n : Nat) : (m.readN a n).length = n := by
  simp [Memory.readN]

theorem Memory.getElem_readN (m : Memory) (a n i : Nat) (h : i < (m.readN a n).length) :
    (m.readN a n)[i] = m.read (a + i) := by
  simp [Memory.readN]

theorem Memory.readN_four (m : Memory) (a : Nat) :
    m.readN a 4 = [m.read a, m.read (a + 1), m.read (a + 2), m.read (a + 3)] := rfl

/-- `MemRead` depends only on the bytes it reads. -/
theorem Memory.readN_congr {m m' : Memory} {a n : Nat} (h : ∀ x, a ≤ x → x < a + n → m'.read x = m.read x) :
    m'.readN a n = m.readN a n := by
  apply List.ext_getElem (by simp)
  intro i h1 h2
  rw [Memory.getElem_readN, Memory.getElem_readN]
  exact h _ (by omega) (by simp at h1; omega)

/-! ### The canonical form -/

theorem Memory.mem_insertCell {a : Nat} {b : Byte} {m : Memory} {c : Host.Cell}
    (h : c ∈ Memory.insertCell a b m) : c = (a, b) ∨ c ∈ m := by
  induction m with
  | nil => simpa [Memory.insertCell] using h
  | cons d m ih =>
    obtain ⟨k, v⟩ := d
    by_cases hlt : a < k
    · simpa [Memory.insertCell, hlt] using h
    · simp only [Memory.insertCell, hlt, if_false, List.mem_cons] at h ⊢
      rcases h with h | h
      · exact .inr (.inl h)
      · rcases ih h with h | h
        · exact .inl h
        · exact .inr (.inr h)

theorem Memory.mem_write {a : Nat} {b : Byte} {m : Memory} {c : Host.Cell} (h : c ∈ m.write a b) :
    (c = (a, b) ∧ b ≠ memDefault) ∨ c ∈ m := by
  by_cases hb : b = memDefault
  · simp only [Memory.write, hb, if_true] at h
    exact .inr (List.mem_filter.mp h).1
  · simp only [Memory.write, hb, if_false] at h
    rcases Memory.mem_insertCell h with h | h
    · exact .inl ⟨h, hb⟩
    · exact .inr (List.mem_filter.mp h).1

theorem Memory.pairwise_insertCell (a : Nat) (b : Byte) (m : Memory)
    (h : m.Pairwise (fun c d => c.1 < d.1)) (hm : ∀ c ∈ m, c.1 ≠ a) :
    (Memory.insertCell a b m).Pairwise (fun c d => c.1 < d.1) := by
  induction m with
  | nil => simp [Memory.insertCell]
  | cons c m ih =>
    obtain ⟨k, v⟩ := c
    have hk : k ≠ a := hm (k, v) (by simp)
    obtain ⟨h1, h2⟩ := List.pairwise_cons.mp h
    by_cases hlt : a < k
    · simp only [Memory.insertCell, hlt, if_true]
      refine List.pairwise_cons.mpr ⟨?_, h⟩
      intro d hd
      rcases List.mem_cons.mp hd with rfl | hd
      · exact hlt
      · exact lt_trans hlt (h1 d hd)
    · simp only [Memory.insertCell, hlt, if_false]
      refine List.pairwise_cons.mpr ⟨?_, ih h2 (fun c hc => hm c (by simp [hc]))⟩
      intro d hd
      rcases Memory.mem_insertCell hd with rfl | hd
      · show k < a
        omega
      · exact h1 d hd

/-- A write keeps the canonical form. -/
theorem Memory.wf_write {m : Memory} (h : m.wf) (a : Nat) (b : Byte) : (m.write a b).wf := by
  refine ⟨?_, fun c hc => ?_⟩
  · have hf : (m.filter (fun c => c.1 != a)).Pairwise (fun c d => c.1 < d.1) := h.1.filter _
    by_cases hb : b = memDefault
    · simpa [Memory.write, hb] using hf
    · simp only [Memory.write, hb, if_false]
      refine Memory.pairwise_insertCell a b _ hf ?_
      intro c hc
      simpa using (List.mem_filter.mp hc).2
  · rcases Memory.mem_write hc with ⟨rfl, hb⟩ | hc
    · exact hb
    · exact h.2 c hc

/-- `MemWrite` keeps the canonical form. -/
theorem Memory.wf_writeN {m : Memory} (h : m.wf) (a : Nat) (s : List Byte) : (m.writeN a s).wf := by
  induction s generalizing m a with
  | nil => exact h
  | cons b s ih => exact ih (Memory.wf_write h a b) (a + 1)

/-- The empty buffer is canonical. -/
theorem Memory.wf_nil : Memory.wf [] := by simp [Memory.wf]

/-- A write lists no index but its own beyond those listed before. -/
theorem Memory.bound_write {m : Memory} {a n : Nat} {b : Byte} (h : ∀ c ∈ m, c.1 < n) (ha : a < n) :
    ∀ c ∈ m.write a b, c.1 < n := by
  intro c hc
  rcases Memory.mem_write hc with ⟨rfl, -⟩ | hc
  · exact ha
  · exact h c hc

theorem Memory.bound_writeN {m : Memory} {a n : Nat} {s : List Byte} (h : ∀ c ∈ m, c.1 < n)
    (ha : a + s.length ≤ n) : ∀ c ∈ m.writeN a s, c.1 < n := by
  induction s generalizing m a with
  | nil => exact h
  | cons b s ih =>
    simp only [List.length_cons] at ha
    exact ih (Memory.bound_write h (by omega)) (by omega)

/-- Canonical buffers that read the same are equal data: the form is canonical. -/
theorem Memory.eq_of_read {m m' : Memory} (h : m.wf) (h' : m'.wf) (hr : ∀ a, m.read a = m'.read a) : m = m' := by
  have low : ∀ (m : Memory) (a : Nat), (∀ c ∈ m, a < c.1) → m.read a = memDefault := by
    intro m a hm
    induction m with
    | nil => rfl
    | cons c m ih =>
      obtain ⟨k, v⟩ := c
      have hk : a < k := hm (k, v) (by simp)
      rw [Memory.read_cons, if_neg (by omega), ih (fun c hc => hm c (by simp [hc]))]
  induction m generalizing m' with
  | nil =>
    cases m' with
    | nil => rfl
    | cons c m' =>
      obtain ⟨k, v⟩ := c
      have := hr k
      simp [Memory.read_cons] at this
      exact absurd this.symm (h'.2 (k, v) (by simp))
  | cons c m ih =>
    obtain ⟨k, v⟩ := c
    obtain ⟨p1, p2⟩ := List.pairwise_cons.mp h.1
    cases m' with
    | nil =>
      have := hr k
      simp [Memory.read_cons] at this
      exact absurd this (h.2 (k, v) (by simp))
    | cons c' m' =>
      obtain ⟨k', v'⟩ := c'
      obtain ⟨q1, q2⟩ := List.pairwise_cons.mp h'.1
      have hk : k = k' := by
        rcases Nat.lt_trichotomy k k' with hlt | heq | hlt
        · have e := hr k
          rw [Memory.read_cons, if_pos rfl, Memory.read_cons, if_neg (by omega),
            low m' k (fun c hc => lt_trans hlt (q1 c hc))] at e
          exact absurd e (h.2 (k, v) (by simp))
        · exact heq
        · have e := hr k'
          rw [Memory.read_cons, if_neg (by omega), Memory.read_cons, if_pos rfl,
            low m k' (fun c hc => lt_trans hlt (p1 c hc))] at e
          exact absurd e.symm (h'.2 (k', v') (by simp))
      subst hk
      have hv : v = v' := by simpa [Memory.read_cons] using hr k
      subst hv
      congr 1
      refine ih ⟨p2, fun c hc => h.2 c (by simp [hc])⟩ ⟨q2, fun c hc => h'.2 c (by simp [hc])⟩ ?_
      intro a
      by_cases ha : a = k
      · subst ha
        rw [low m a p1, low m' a q1]
      · simpa [Memory.read_cons, ha] using hr a

end Sys2Proof.Machine
end

