-- ==== Sys2Proof/Laws/Words.lean ====
section
/-! SUPPORT. Bytes of a wire image and the two byte orders: taking apart and putting together are inverse. -/

namespace Sys2Proof

theorem halfOf_extract (v : Half) : halfOf (v.extractLsb' 8 8) (v.extractLsb' 0 8) = v := by
  apply BitVec.eq_of_getLsbD_eq
  intro i hi
  simp only [halfOf, BitVec.getLsbD_append, BitVec.getLsbD_extractLsb']
  interval_cases i <;> simp

theorem wordOf_extract (v : Word) :
    wordOf (v.extractLsb' 24 8) (v.extractLsb' 16 8) (v.extractLsb' 8 8) (v.extractLsb' 0 8) = v := by
  apply BitVec.eq_of_getLsbD_eq
  intro i hi
  simp only [wordOf, BitVec.getLsbD_append, BitVec.getLsbD_extractLsb']
  interval_cases i <;> simp

@[simp] theorem halfBytes_halfOf (b1 b0 : Byte) : halfBytes (halfOf b1 b0) = [b1, b0] := by
  simp only [halfBytes, List.cons.injEq, and_true]
  refine ⟨?_, ?_⟩ <;>
  · apply BitVec.eq_of_getLsbD_eq
    intro i hi
    simp only [halfOf, BitVec.getLsbD_append, BitVec.getLsbD_extractLsb']
    interval_cases i <;> simp

@[simp] theorem wordBytes_wordOf (b3 b2 b1 b0 : Byte) : wordBytes (wordOf b3 b2 b1 b0) = [b3, b2, b1, b0] := by
  simp only [wordBytes, List.cons.injEq, and_true]
  refine ⟨?_, ?_, ?_, ?_⟩ <;>
  · apply BitVec.eq_of_getLsbD_eq
    intro i hi
    simp only [wordOf, BitVec.getLsbD_append, BitVec.getLsbD_extractLsb']
    interval_cases i <;> simp

@[simp] theorem length_halfBytes (v : Half) : (halfBytes v).length = 2 := rfl

@[simp] theorem length_wordBytes (v : Word) : (wordBytes v).length = 4 := rfl

namespace Machine

@[simp] theorem length_pack16 (e : Endian) (v : Half) : (pack16 e v).length = 2 := by cases e <;> rfl

@[simp] theorem length_pack32 (e : Endian) (v : Word) : (pack32 e v).length = 4 := by cases e <;> rfl

/-- The byte orders differ only in which byte comes first. -/
theorem pack16_eq (e : Endian) (v : Half) :
    pack16 e v = if e = .little then (halfBytes v).reverse else halfBytes v := by cases e <;> rfl

theorem pack32_eq (e : Endian) (v : Word) :
    pack32 e v = if e = .little then (wordBytes v).reverse else wordBytes v := by cases e <;> rfl

theorem unpack16_eq (e : Endian) (b0 b1 : Byte) :
    unpack16 e b0 b1 = if e = .little then halfOf b1 b0 else halfOf b0 b1 := by cases e <;> rfl

theorem unpack32_eq (e : Endian) (b0 b1 b2 b3 : Byte) :
    unpack32 e b0 b1 b2 b3 = if e = .little then wordOf b3 b2 b1 b0 else wordOf b0 b1 b2 b3 := by
  cases e <;> rfl

/-- Packing what was unpacked gives the bytes back. -/
@[simp] theorem pack16_unpack16 (e : Endian) (b0 b1 : Byte) : pack16 e (unpack16 e b0 b1) = [b0, b1] := by
  cases e <;> simp [pack16_eq, unpack16_eq]

@[simp] theorem pack32_unpack32 (e : Endian) (b0 b1 b2 b3 : Byte) :
    pack32 e (unpack32 e b0 b1 b2 b3) = [b0, b1, b2, b3] := by
  cases e <;> simp [pack32_eq, unpack32_eq]

end Machine

end Sys2Proof
end

