-- ==== Sys2Proof/Laws/Codec.lean ====
section
/-! SUPPORT. What the shared operations of U1 and U2 can do. -/

namespace Sys2Proof.Machine

/-! ### U1 -/

@[simp] theorem frameChecksum_nil : frameChecksum [] = 0#32 := rfl

/-- The checksum of a longer sequence goes on from the checksum so far. -/
theorem frameChecksum_append (s t : List Byte) : frameChecksum (s ++ t) = t.foldl crcUpdate (frameChecksum s) := by
  simp [frameChecksum, List.foldl_append]

theorem crcShifts_succ (n : Nat) (v : Word) : crcShifts (n + 1) v = crcShifts n (crcShift v) := rfl

/-- One iteration is linear. -/
theorem crcShift_xor (a b : Word) : crcShift (a ^^^ b) = crcShift a ^^^ crcShift b := by
  have hx : ∀ p q r : Word, (p ^^^ r) ^^^ q = (p ^^^ q) ^^^ r := by intros; ac_rfl
  have hz : ∀ p q r : Word, (p ^^^ r) ^^^ (q ^^^ r) = p ^^^ q := by
    intro p q r
    calc (p ^^^ r) ^^^ (q ^^^ r) = (p ^^^ q) ^^^ (r ^^^ r) := by ac_rfl
      _ = p ^^^ q := by simp
  unfold crcShift
  rw [BitVec.getLsbD_xor]
  cases ha : a.getLsbD 0 <;> cases hb : b.getLsbD 0
  · simp [BitVec.ushiftRight_xor_distrib]
  · simp [BitVec.ushiftRight_xor_distrib, BitVec.xor_assoc]
  · simp [BitVec.ushiftRight_xor_distrib, hx]
  · simp [BitVec.ushiftRight_xor_distrib, hz]

/-- All iterations are linear. -/
theorem crcShifts_xor (n : Nat) (a b : Word) : crcShifts n (a ^^^ b) = crcShifts n a ^^^ crcShifts n b := by
  induction n generalizing a b with
  | zero => rfl
  | succ n ih => rw [crcShifts_succ, crcShifts_succ, crcShifts_succ, crcShift_xor, ih]

/-! ### U2 -/

theorem reserved_iff (b : Byte) : reserved b = true ↔ b = Config.marker ∨ b = Config.esc := by
  simp [reserved]

@[simp] theorem escapeBytes_nil : escapeBytes [] = [] := rfl

theorem escapeBytes_cons (b : Byte) (s : List Byte) : escapeBytes (b :: s) = escapeByte b ++ escapeBytes s := rfl

/-- One escaped byte, in the three forms it can take. -/
theorem escapeByte_cases (b : Byte) :
    (b = Config.marker ∧ escapeByte b = [Config.esc, Config.marker]) ∨
    (b = Config.esc ∧ escapeByte b = [Config.esc, Config.esc]) ∨
    (b ≠ Config.marker ∧ b ≠ Config.esc ∧ escapeByte b = [b]) := by
  by_cases hm : b = Config.marker
  · subst hm
    exact .inl ⟨rfl, rfl⟩
  · by_cases he : b = Config.esc
    · subst he
      exact .inr (.inl ⟨rfl, rfl⟩)
    · exact .inr (.inr ⟨hm, he, by simp [escapeByte, reserved, hm, he]⟩)

/-- Everything `UNESC` can do: mark an escape, or complete one logical byte. -/
theorem unescape_cases (d : Byte) (s : State) :
    (s.unescaping = false ∧ d = Config.esc ∧
      unescape d s = ({ s with buf := s.buf.write s.cursor d, unescaping := true }, false)) ∨
    (¬(s.unescaping = false ∧ d = Config.esc) ∧
      unescape d s =
        ({ s with buf := s.buf.write s.cursor d, cursor := s.cursor + 1, unescaping := false }, true)) := by
  obtain ⟨st, c, u, m, cfg, r, e, inp⟩ := s
  cases u
  · by_cases hd : d = Config.esc
    · exact .inl ⟨rfl, hd, by simp [unescape, hd, State.storeAtCursor, State.setUnescaping]⟩
    · exact .inr ⟨by simp [hd], by simp [unescape, hd, State.storeAtCursor, State.advance]⟩
  · exact .inr ⟨by simp, by simp [unescape, State.storeAtCursor, State.advance, State.clearUnescaping]⟩

end Sys2Proof.Machine
end

