-- ==== Sys2Proof/Laws/Feed.lean ====
section
/-! SUPPORT. What one feed can do, stage by stage, as explicit next states: the lemmas later proofs cite instead of unfolding
`feedStep`. -/

namespace Sys2Proof.Machine

/-- The state after the store of a feed in the seeking stage. -/
abbrev State.stored (s : State) (d : Byte) : State :=
  { s with buf := s.buf.write s.cursor d, cursor := s.cursor + 1 }

/-- `SEEK_STEP`: match, slide or store. -/
theorem seekStep_cases (d : Byte) (s : State) :
    (3 ≤ s.cursor ∧ preambleMatch (s.stored d) = true ∧
      seekStep d s = { s with
        buf := s.buf.write s.cursor d, cursor := 0, state := .readingHeader, event := some .evPreamble,
        result := .feed none }) ∨
    (¬(3 ≤ s.cursor ∧ preambleMatch (s.stored d) = true) ∧ s.cursor + 1 = s.cfg.cap ∧
      seekStep d s = { s with
        buf := (s.buf.write s.cursor d).writeN 0 ((s.buf.write s.cursor d).readN (s.cfg.cap - 4) 4), cursor := 4,
        event := some .evSlide, result := .feed none }) ∨
    (¬(3 ≤ s.cursor ∧ preambleMatch (s.stored d) = true) ∧ s.cursor + 1 ≠ s.cfg.cap ∧
      seekStep d s = { s with
        buf := s.buf.write s.cursor d, cursor := s.cursor + 1, event := some .evStore, result := .feed none }) := by
  have h4 : (4 ≤ s.cursor + 1) = (3 ≤ s.cursor) := by simp
  have hs : (s.storeAtCursor d).advance = s.stored d := rfl
  unfold seekStep
  rw [hs]
  by_cases hm : 3 ≤ s.cursor ∧ preambleMatch (s.stored d) = true
  · refine .inl ⟨hm.1, hm.2, ?_⟩
    rw [if_pos (by simpa [h4] using hm)]
    rfl
  · by_cases hc : s.cursor + 1 = s.cfg.cap
    · refine .inr (.inl ⟨hm, hc, ?_⟩)
      rw [if_neg (by simpa [h4] using hm), if_pos hc]
      rfl
    · refine .inr (.inr ⟨hm, hc, ?_⟩)
      rw [if_neg (by simpa [h4] using hm), if_neg hc]
      rfl

/-- The state after `UNESC` completed a logical byte. -/
abbrev State.counted (s : State) (d : Byte) : State :=
  { s with buf := s.buf.write s.cursor d, cursor := s.cursor + 1, unescaping := false }

/-- The state after an escape marker. -/
abbrev State.marked (s : State) (d : Byte) : State :=
  { s with buf := s.buf.write s.cursor d, unescaping := true, event := some .evEsc, result := .feed none }

/-- The header completion check: accept, or reject for one of two reasons. -/
theorem headerDone_cases (s : State) :
    (headerChecksumOk s = true ∧ headerLengthOk s = true ∧
      headerDone s = { s with state := .readingBody, event := some .evHdrOk }) ∨
    (headerChecksumOk s = true ∧ headerLengthOk s = false ∧
      headerDone s = { s with state := .seekingPreamble, cursor := 0, event := some .evHdrBadLen }) ∨
    (headerChecksumOk s = false ∧
      headerDone s = { s with state := .seekingPreamble, cursor := 0, event := some .evHdrBadCk }) := by
  unfold headerDone
  cases hc : headerChecksumOk s
  · exact .inr (.inr ⟨rfl, rfl⟩)
  · cases hl : headerLengthOk s
    · exact .inr (.inl ⟨rfl, rfl, rfl⟩)
    · exact .inl ⟨rfl, rfl, rfl⟩

/-- `HEADER_STEP`: a marker, a byte counted, or the header completed. -/
theorem headerStep_cases (d : Byte) (s : State) :
    (s.unescaping = false ∧ d = Config.esc ∧ headerStep d s = s.marked d) ∨
    (¬(s.unescaping = false ∧ d = Config.esc) ∧ s.cursor ≠ 4 ∧
      headerStep d s = { s.counted d with event := some .evStore, result := .feed none }) ∨
    (¬(s.unescaping = false ∧ d = Config.esc) ∧ s.cursor = 4 ∧
      headerStep d s = { headerDone (s.counted d) with result := .feed none }) := by
  unfold headerStep
  rcases unescape_cases d s with ⟨hu, hd, he⟩ | ⟨hn, he⟩
  · refine .inl ⟨hu, hd, ?_⟩
    rw [he]
    rfl
  · rw [he]
    by_cases hc : s.cursor = 4
    · refine .inr (.inr ⟨hn, hc, ?_⟩)
      exact if_pos (show (s.counted d).cursor = Config.lenHeader by simp [Config.lenHeader, hc])
    · refine .inr (.inl ⟨hn, hc, ?_⟩)
      exact if_neg (show ¬(s.counted d).cursor = Config.lenHeader by simpa [Config.lenHeader] using hc)

/-- `BODY_STEP`: a marker, a byte counted, or the body completed. -/
theorem bodyStep_cases (d : Byte) (s : State) :
    (s.unescaping = false ∧ d = Config.esc ∧ bodyStep d s = s.marked d) ∨
    (¬(s.unescaping = false ∧ d = Config.esc) ∧ s.cursor + 1 ≠ 5 + (s.counted d).rxLength + 4 ∧
      bodyStep d s = { s.counted d with event := some .evStore, result := .feed none }) ∨
    (¬(s.unescaping = false ∧ d = Config.esc) ∧ s.cursor + 1 = 5 + (s.counted d).rxLength + 4 ∧
      bodyStep d s = { s.counted d with
        state := .seekingPreamble, cursor := 0,
        event := some (if bodyCheck (s.counted d) then .evFrameOk else .evFrameDamaged),
        result := .feed (bodyResult (bodyCheck (s.counted d)) s.cfg.lenient (s.counted d).rxFlags
          (s.counted d).rxPayload) }) := by
  unfold bodyStep
  rcases unescape_cases d s with ⟨hu, hd, he⟩ | ⟨hn, he⟩
  · refine .inl ⟨hu, hd, ?_⟩
    rw [he]
    rfl
  · rw [he]
    by_cases hc : s.cursor + 1 = 5 + (s.counted d).rxLength + 4
    · refine .inr (.inr ⟨hn, hc, ?_⟩)
      exact if_pos (show (s.counted d).cursor = Config.lenHeader + (s.counted d).rxLength + Config.lenCrc from hc)
    · refine .inr (.inl ⟨hn, hc, ?_⟩)
      exact if_neg (show ¬(s.counted d).cursor = Config.lenHeader + (s.counted d).rxLength + Config.lenCrc from hc)

/-! ### The feed -/

theorem feedByte_of_lt {d : Byte} {s : State} (h : s.cursor < s.cfg.cap) : feedByte d s = .next (feedStep d s) := by
  simp [feedByte, h]

/-- A feed completes exactly where `cursor` is in the buffer. -/
theorem feedByte_next_iff {d : Byte} {s t : State} :
    feedByte d s = .next t ↔ s.cursor < s.cfg.cap ∧ feedStep d s = t := by
  by_cases h : s.cursor < s.cfg.cap
  · simp [feedByte, h]
  · simp [feedByte, h]

theorem feedByte_not_refused {d : Byte} {s : State} {r : Refusal} : feedByte d s ≠ .refused r := by
  unfold feedByte
  split <;> simp

theorem feedStep_seeking {d : Byte} {s : State} (h : s.state = .seekingPreamble) : feedStep d s = seekStep d s := by
  simp [feedStep, h]

theorem feedStep_header {d : Byte} {s : State} (h : s.state = .readingHeader) : feedStep d s = headerStep d s := by
  simp [feedStep, h]

theorem feedStep_body {d : Byte} {s : State} (h : s.state = .readingBody) : feedStep d s = bodyStep d s := by
  simp [feedStep, h]

theorem headerDone_same (s : State) :
    (headerDone s).cfg = s.cfg ∧ (headerDone s).input = s.input ∧ (headerDone s).buf = s.buf ∧
    (headerDone s).unescaping = s.unescaping := by
  rcases headerDone_cases s with ⟨-, -, h⟩ | ⟨-, -, h⟩ | ⟨-, h⟩ <;> simp [h]

/-- A feed leaves the configuration and the pending transactions alone. -/
theorem feedStep_same (d : Byte) (s : State) :
    (feedStep d s).cfg = s.cfg ∧ (feedStep d s).input = s.input := by
  unfold feedStep
  split
  · rcases seekStep_cases d s with ⟨-, -, h⟩ | ⟨-, -, h⟩ | ⟨-, -, h⟩ <;> simp [h]
  · rcases headerStep_cases d s with ⟨-, -, h⟩ | ⟨-, -, h⟩ | ⟨-, -, h⟩ <;>
      simp [h, (headerDone_same (s.counted d)).1, (headerDone_same (s.counted d)).2.1]
  · rcases bodyStep_cases d s with ⟨-, -, h⟩ | ⟨-, -, h⟩ | ⟨-, -, h⟩ <;> simp [h]

/-- The result of a feed is a feed's result. -/
theorem feedStep_result (d : Byte) (s : State) : ∃ r, (feedStep d s).result = .feed r := by
  unfold feedStep
  split
  · rcases seekStep_cases d s with ⟨-, -, h⟩ | ⟨-, -, h⟩ | ⟨-, -, h⟩ <;> simp [h]
  · rcases headerStep_cases d s with ⟨-, -, h⟩ | ⟨-, -, h⟩ | ⟨-, -, h⟩ <;> simp [h]
  · rcases bodyStep_cases d s with ⟨-, -, h⟩ | ⟨-, -, h⟩ | ⟨-, -, h⟩ <;> simp [h]

/-! ### Sequences of feeds -/

/-- What a feed's result adds to the list of frames. -/
def frameOf (r : Result) : List Frame :=
  match r with
  | .feed (some f) => [f]
  | _ => []

@[simp] theorem frameOf_none : frameOf (.feed none) = [] := rfl

@[simp] theorem frameOf_some (f : Frame) : frameOf (.feed (some f)) = [f] := rfl

@[simp] theorem feedSeq_nil (s : State) : feedSeq [] s = .next (s, []) := rfl

/-- A sequence completes exactly when its first feed and the rest do. -/
theorem feedSeq_cons_next_iff {d : Byte} {ds : List Byte} {s u : State} {frames : List Frame} :
    feedSeq (d :: ds) s = .next (u, frames) ↔
      ∃ t more, feedByte d s = .next t ∧ feedSeq ds t = .next (u, more) ∧ frames = frameOf t.result ++ more := by
  constructor
  · intro h
    unfold feedSeq at h
    split at h
    · cases h
    · cases h
    · rename_i t ht
      split at h
      · cases h
      · cases h
      · rename_i u' more hm
        split at h
        · rename_i f hf
          cases h
          exact ⟨t, more, ht, hm, by simp [hf]⟩
        · rename_i hf
          cases h
          refine ⟨t, frames, ht, hm, ?_⟩
          have : frameOf t.result = [] := by
            unfold frameOf
            split
            · rename_i f hf'
              exact absurd hf' (hf f)
            · rfl
          simp [this]
  · rintro ⟨t, more, ht, hm, rfl⟩
    unfold feedSeq
    rw [ht]
    simp only [hm]
    split
    · rename_i f hf
      simp [hf]
    · rename_i hf
      have : frameOf t.result = [] := by
        unfold frameOf
        split
        · rename_i f hf'
          exact absurd hf' (hf f)
        · rfl
      simp [this]

/-- Sequences compose. -/
theorem feedSeq_append_next_iff {a b : List Byte} {s u : State} {frames : List Frame} :
    feedSeq (a ++ b) s = .next (u, frames) ↔
      ∃ t fs gs, feedSeq a s = .next (t, fs) ∧ feedSeq b t = .next (u, gs) ∧ frames = fs ++ gs := by
  induction a generalizing s frames with
  | nil =>
    constructor
    · intro h
      exact ⟨s, [], frames, rfl, h, rfl⟩
    · rintro ⟨t, fs, gs, h1, h2, rfl⟩
      cases h1
      simpa using h2
  | cons d a ih =>
    rw [List.cons_append, feedSeq_cons_next_iff]
    constructor
    · rintro ⟨t, more, ht, hm, rfl⟩
      obtain ⟨t2, fs, gs, h1, h2, rfl⟩ := ih.mp hm
      exact ⟨t2, frameOf t.result ++ fs, gs, feedSeq_cons_next_iff.mpr ⟨t, fs, ht, h1, rfl⟩, h2, by simp⟩
    · rintro ⟨t2, fs, gs, h1, h2, rfl⟩
      obtain ⟨t, more, ht, hm, rfl⟩ := feedSeq_cons_next_iff.mp h1
      exact ⟨t, more ++ gs, ht, ih.mpr ⟨t2, more, gs, hm, h2, rfl⟩, by simp⟩

end Sys2Proof.Machine
end

