-- ==== Sys2Proof/Laws/Exec.lean ====
section
/-! SUPPORT. What the rows over shared operations can do: the receive symbols, the host's read loop and write. -/

namespace Sys2Proof.Machine

/-- The outcome of a symbol is that of its feeds, the frames left out. -/
theorem feedSymbol_next_iff {ds : List Byte} {s t : State} :
    feedSymbol ds s = .next t ↔ ∃ frames, feedSeq ds s = .next (t, frames) := by
  unfold feedSymbol
  cases h : feedSeq ds s with
  | next p =>
    obtain ⟨u, frames⟩ := p
    simp
  | fault f => simp
  | refused r => simp

@[simp] theorem exec_nop (s : State) : exec .nop s = .next { s with result := .nothing } := rfl

@[simp] theorem exec_feed (d : Byte) (s : State) : exec (.feed d) s = feedByte d s := rfl

@[simp] theorem exec_encode (flags : Half) (payload : List Byte) (s : State) :
    exec (.encode flags payload) s = .next { s with result := encodeFrame s.cfg flags payload } := rfl

/-- `RAW` is a feed in the seeking stage. -/
theorem exec_raw_next_iff {d : Byte} {s t : State} :
    exec (.raw d) s = .next t ↔ s.state = .seekingPreamble ∧ feedByte d s = .next t := by
  show execRaw d s = .next t ↔ _
  unfold execRaw
  split <;> simp_all

/-- A reading stage is any stage but the seeking one. -/
theorem State.reading_iff (s : State) : s.reading ↔ s.state ≠ .seekingPreamble := by
  cases h : s.state <;> simp [State.reading, h]

/-- `ESCAPED` is a feed in a reading stage with the flag set. -/
theorem exec_escaped_next_iff {d : Byte} {s t : State} :
    exec (.escaped d) s = .next t ↔
      (s.state ≠ .seekingPreamble ∧ s.unescaping = true) ∧ feedByte d s = .next t := by
  show execEscaped d s = .next t ↔ _
  rw [← s.reading_iff]
  unfold execEscaped
  split <;> simp_all

/-- `ESCMARK` is a feed of `ESC` in a reading stage with the flag clear. -/
theorem exec_escmark_next_iff {s t : State} :
    exec .escmark s = .next t ↔
      (s.state ≠ .seekingPreamble ∧ s.unescaping = false) ∧ feedByte Config.esc s = .next t := by
  show execEscmark s = .next t ↔ _
  rw [← s.reading_iff]
  unfold execEscmark
  split <;> simp_all

/-- `LITERAL` is a feed of any byte but `ESC` in a reading stage with the flag clear. -/
theorem exec_literal_next_iff {d : Byte} {s t : State} :
    exec (.literal d) s = .next t ↔
      (s.state ≠ .seekingPreamble ∧ s.unescaping = false ∧ d ≠ Config.esc) ∧ feedByte d s = .next t := by
  show execLiteral d s = .next t ↔ _
  rw [← s.reading_iff]
  unfold execLiteral
  split <;> simp_all

/-- `PREAMBLE` is four feeds that begin in the seeking stage. -/
theorem exec_preamble_next_iff {p : Word} {s t : State} :
    exec (.preamble p) s = .next t ↔ s.state = .seekingPreamble ∧ feedSymbol (wordBytes p) s = .next t := by
  show execPreamble p s = .next t ↔ _
  unfold execPreamble
  split <;> simp_all

/-- `READ_FRAME` stops with the frame a byte completes. -/
theorem readFrame_cons_some {d : Byte} {source : List Byte} {s t : State} {f : Frame}
    (h : feedByte d s = .next t) (hf : t.result = .feed (some f)) :
    readFrame (d :: source) s = .next { frame := some f, source := source, block := t } := by
  simp [readFrame, execFeed, h, hf]

/-- `READ_FRAME` goes on after a byte that completes no frame. -/
theorem readFrame_cons_none {d : Byte} {source : List Byte} {s t : State}
    (h : feedByte d s = .next t) (hn : t.result = .feed none) :
    readFrame (d :: source) s = readFrame source t := by
  simp [readFrame, execFeed, h, hn]

/-- Everything `WRITE_FRAME` can do: too long a payload, a sink that delivers, a sink that fails. -/
theorem writeFrame_cases (flags : Half) (payload : List Byte) (answer : SinkAnswer) (sink : List Byte) (s : State) :
    (s.cfg.maxLen.toNat < payload.length ∧
      writeFrame flags payload answer sink s = .next
        { status := .lengthExceeded payload.length, sink := sink,
          block := { s with result := .lengthExceeded payload.length } }) ∨
    (payload.length ≤ s.cfg.maxLen.toNat ∧ answer = .delivers ∧
      writeFrame flags payload answer sink s = .next
        { status := .ok, sink := sink ++ frameWire s.cfg flags payload,
          block := { s with result := .encoded (frameWire s.cfg flags payload) } }) ∨
    (payload.length ≤ s.cfg.maxLen.toNat ∧ ∃ after, answer = .fails after ∧
      writeFrame flags payload answer sink s = .next
        { status := .sinkFailed, sink := sink ++ (frameWire s.cfg flags payload).take after,
          block := { s with result := .encoded (frameWire s.cfg flags payload) } }) := by
  by_cases h : s.cfg.maxLen.toNat < payload.length
  · exact .inl ⟨h, by simp [writeFrame, execEncode, encodeFrame, h, State.respond]⟩
  · have hle := Nat.le_of_not_lt h
    cases answer with
    | delivers => exact .inr (.inl ⟨hle, rfl, by simp [writeFrame, execEncode, encodeFrame, h, State.respond, sinkWrite]⟩)
    | fails after =>
      exact .inr (.inr ⟨hle, after, rfl, by simp [writeFrame, execEncode, encodeFrame, h, State.respond, sinkWrite]⟩)

end Sys2Proof.Machine
end

