-- ==== Sys2Proof/Laws/PerInstr.lean ====
section
/-! SUPPORT. What is said of every row one by one: its encoding names its channel and has a first byte to read. -/

namespace Sys2Proof.Laws.EncodeShape

open Sys2Proof

/-- The transaction of a row is in the row's own code space and is not empty. -/
def Statement (i : Instr) : Prop := (encode i).channel = i.channel ∧ 0 < (encode i).bytes.length

theorem nop : Statement .nop := ⟨rfl, Nat.zero_lt_succ _⟩

theorem feed (d : Byte) : Statement (.feed d) := ⟨rfl, Nat.zero_lt_succ _⟩

theorem encode (flags : Half) (payload : List Byte) : Statement (.encode flags payload) := ⟨rfl, Nat.zero_lt_succ _⟩

theorem hck (b0 : Byte) (b1 : Byte) (b2 : Byte) (b3 : Byte) : Statement (.hck b0 b1 b2 b3) := ⟨rfl, Nat.zero_lt_succ _⟩

theorem crcUpd (crc : Word) (c : Byte) : Statement (.crcUpd crc c) := ⟨rfl, Nat.zero_lt_succ _⟩

theorem crc32 (s : List Byte) : Statement (.crc32 s) := ⟨rfl, Nat.zero_lt_succ _⟩

theorem escEnc (b : Byte) : Statement (.escEnc b) := ⟨rfl, Nat.zero_lt_succ _⟩

theorem escape (s : List Byte) : Statement (.escape s) := ⟨rfl, Nat.zero_lt_succ _⟩

theorem reservedOp (r : BitVec 3) : Statement (.reservedOp r) := ⟨rfl, Nat.zero_lt_succ _⟩

theorem raw (d : Byte) : Statement (.raw d) := ⟨rfl, Nat.zero_lt_succ _⟩

theorem preamble (p : Word) : Statement (.preamble p) := ⟨rfl, Nat.zero_lt_succ _⟩

theorem preambleRecLittle : Statement .preambleRecLittle := ⟨rfl, Nat.zero_lt_succ _⟩

theorem preambleRecBig : Statement .preambleRecBig := ⟨rfl, Nat.zero_lt_succ _⟩

theorem escaped (d : Byte) : Statement (.escaped d) := ⟨rfl, Nat.zero_lt_succ _⟩

theorem escmark : Statement .escmark := ⟨rfl, Nat.zero_lt_succ _⟩

theorem literal (d : Byte) : Statement (.literal d) := ⟨rfl, Nat.zero_lt_succ _⟩

theorem txPlain (b : Byte) : Statement (.txPlain b) := ⟨rfl, Nat.zero_lt_succ _⟩

theorem txEscMarker : Statement .txEscMarker := ⟨rfl, Nat.zero_lt_succ _⟩

theorem txEscEsc : Statement .txEscEsc := ⟨rfl, Nat.zero_lt_succ _⟩

theorem fieldPreamble (p : Word) : Statement (.fieldPreamble p) := ⟨rfl, Nat.zero_lt_succ _⟩

theorem fieldFlags (f : Half) : Statement (.fieldFlags f) := ⟨rfl, Nat.zero_lt_succ _⟩

theorem fieldLength (n : Half) : Statement (.fieldLength n) := ⟨rfl, Nat.zero_lt_succ _⟩

theorem fieldHck (h : Byte) : Statement (.fieldHck h) := ⟨rfl, Nat.zero_lt_succ _⟩

theorem fieldPayloadByte (y : Byte) : Statement (.fieldPayloadByte y) := ⟨rfl, Nat.zero_lt_succ _⟩

theorem fieldCrc32 (c : Word) : Statement (.fieldCrc32 c) := ⟨rfl, Nat.zero_lt_succ _⟩

theorem resNone : Statement .resNone := ⟨rfl, Nat.zero_lt_succ _⟩

theorem resFrameValid (flags : Half) (payload : List Byte) : Statement (.resFrameValid flags payload) := ⟨rfl, Nat.zero_lt_succ _⟩

theorem resFrameDamaged (flags : Half) (payload : List Byte) : Statement (.resFrameDamaged flags payload) := ⟨rfl, Nat.zero_lt_succ _⟩

theorem resReserved : Statement .resReserved := ⟨rfl, Nat.zero_lt_succ _⟩

theorem stOk (s : List Byte) : Statement (.stOk s) := ⟨rfl, Nat.zero_lt_succ _⟩

theorem stLengthExceeded (length : Word) : Statement (.stLengthExceeded length) := ⟨rfl, Nat.zero_lt_succ _⟩

end Sys2Proof.Laws.EncodeShape
end

