-- ==== Sys2Proof/Tests/Slice0.lean ====
section
/-! SUPPORT. Tests. Expected values are 95_test_vectors.md's (the vector is named) or computed by hand from the rule named. The
`witness_` theorems show that the hypotheses of a statement (named after it) can be met. -/

namespace Sys2Proof.Tests

open Sys2Proof Sys2Proof.Machine

/-! ### Ill-formed terms are refused, one per check -/

theorem test_wellFormed_preamble_not_little_image : (Instr.preamble 0x55AA55AA#32).wellFormed = false := by decide
theorem test_wellFormed_preamble_not_big_image : (Instr.preamble 0xAA55AA55#32).wellFormed = false := by decide
theorem test_wellFormed_literal_not_esc : (Instr.literal 0x1B#8).wellFormed = false := by decide
theorem test_wellFormed_txPlain_not_marker : (Instr.txPlain 0xAA#8).wellFormed = false := by decide
theorem test_wellFormed_txPlain_not_esc : (Instr.txPlain 0x1B#8).wellFormed = false := by decide

/-- 65536 payload bytes do not fit `N : u16`. -/
theorem test_wellFormed_resFrameValid_length :
    (Instr.resFrameValid 0#16 (List.replicate 65536 0#8)).wellFormed = false := by
  show decide ((List.replicate 65536 0#8).length < 65536) = false
  rw [List.length_replicate]
  rfl

theorem test_wellFormed_resFrameDamaged_length :
    (Instr.resFrameDamaged 0#16 (List.replicate 65536 0#8)).wellFormed = false := by
  show decide ((List.replicate 65536 0#8).length < 65536) = false
  rw [List.length_replicate]
  rfl

theorem test_wellFormed_resFrameValid_longest :
    (Instr.resFrameValid 0#16 (List.replicate 65535 0#8)).wellFormed = true := by
  show decide ((List.replicate 65535 0#8).length < 65536) = true
  rw [List.length_replicate]
  rfl

/-! ### Every row's word, written from the spec's encoding of it (R73, R74, R69, R70, R106, R61 to R66) -/

/-- A transaction. -/
abbrev tx (c : Channel) (bytes : List Byte) : Transaction := { channel := c, bytes := bytes }

theorem test_decode_nop : decode (tx .request [0b00000000#8]) = .ok .nop := rfl
theorem test_decode_feed : decode (tx .request [0b00000001#8, 0xAA#8]) = .ok (.feed 0xAA#8) := rfl
theorem test_decode_encode :
    decode (tx .request [0b00000010#8, 0x00#8, 0xAA#8, 0x1B#8]) = .ok (.encode 0x00AA#16 [0x1B#8]) := rfl
theorem test_decode_hck :
    decode (tx .request [0b00000011#8, 0x12#8, 0x34#8, 0x56#8, 0x78#8]) = .ok (.hck 0x12#8 0x34#8 0x56#8 0x78#8) := rfl
theorem test_decode_crcUpd :
    decode (tx .request [0b00000100#8, 0x12#8, 0x34#8, 0x56#8, 0x78#8, 0x9A#8]) = .ok (.crcUpd 0x12345678#32 0x9A#8) := rfl
theorem test_decode_crc32 : decode (tx .request [0b00000101#8, 0x61#8, 0x62#8]) = .ok (.crc32 [0x61#8, 0x62#8]) := rfl
theorem test_decode_escEnc : decode (tx .request [0b00000110#8, 0x1B#8]) = .ok (.escEnc 0x1B#8) := rfl
theorem test_decode_escape : decode (tx .request [0b00000111#8, 0xAA#8]) = .ok (.escape [0xAA#8]) := rfl
theorem test_decode_reservedOp_first : decode (tx .request [0b00001000#8]) = .ok (.reservedOp 0b000#3) := rfl
theorem test_decode_reservedOp_last : decode (tx .request [0b00001111#8]) = .ok (.reservedOp 0b111#3) := rfl
theorem test_decode_raw : decode (tx .rxSeeking [0x1B#8]) = .ok (.raw 0x1B#8) := rfl
theorem test_decode_preamble :
    decode (tx .rxSeeking [0x12#8, 0x34#8, 0x56#8, 0x78#8]) = .ok (.preamble 0x12345678#32) := rfl
theorem test_decode_preambleRecLittle :
    decode (tx .rxSeeking [0b01010101#8, 0b10101010#8, 0b01010101#8, 0b10101010#8]) = .ok .preambleRecLittle := rfl
theorem test_decode_preambleRecBig :
    decode (tx .rxSeeking [0b10101010#8, 0b01010101#8, 0b10101010#8, 0b01010101#8]) = .ok .preambleRecBig := rfl
theorem test_decode_escaped : decode (tx .rxPending [0x1B#8]) = .ok (.escaped 0x1B#8) := rfl
theorem test_decode_escmark : decode (tx .rxReading [0b00011011#8]) = .ok .escmark := rfl
theorem test_decode_literal : decode (tx .rxReading [0xAA#8]) = .ok (.literal 0xAA#8) := rfl
theorem test_decode_txPlain : decode (tx .txSymbol [0x55#8]) = .ok (.txPlain 0x55#8) := rfl
theorem test_decode_txEscMarker : decode (tx .txSymbol [0b00011011#8, 0b10101010#8]) = .ok .txEscMarker := rfl
theorem test_decode_txEscEsc : decode (tx .txSymbol [0b00011011#8, 0b00011011#8]) = .ok .txEscEsc := rfl
theorem test_decode_fieldPreamble :
    decode (tx .fieldPreamble [0x55#8, 0xAA#8, 0x55#8, 0xAA#8]) = .ok (.fieldPreamble 0x55AA55AA#32) := rfl
theorem test_decode_fieldFlags : decode (tx .fieldFlags [0x7B#8, 0x00#8]) = .ok (.fieldFlags 0x7B00#16) := rfl
theorem test_decode_fieldLength : decode (tx .fieldLength [0x01#8, 0x00#8]) = .ok (.fieldLength 0x0100#16) := rfl
theorem test_decode_fieldHck : decode (tx .fieldHck [0x7B#8]) = .ok (.fieldHck 0x7B#8) := rfl
theorem test_decode_fieldPayloadByte : decode (tx .fieldPayload [0x61#8]) = .ok (.fieldPayloadByte 0x61#8) := rfl
theorem test_decode_fieldCrc32 :
    decode (tx .fieldCrc [0x6A#8, 0x79#8, 0xD5#8, 0x49#8]) = .ok (.fieldCrc32 0x6A79D549#32) := rfl
theorem test_decode_resNone : decode (tx .feedResult [0b00000000#8]) = .ok .resNone := rfl
theorem test_decode_resFrameValid :
    decode (tx .feedResult [0b00000001#8, 0x00#8, 0xAA#8, 0x00#8, 0x01#8, 0x1B#8]) =
      .ok (.resFrameValid 0x00AA#16 [0x1B#8]) := rfl
theorem test_decode_resFrameDamaged :
    decode (tx .feedResult [0b00000010#8, 0x00#8, 0x7B#8, 0x00#8, 0x00#8]) = .ok (.resFrameDamaged 0x007B#16 []) := rfl
theorem test_decode_resReserved : decode (tx .feedResult [0b00000011#8]) = .ok .resReserved := rfl
theorem test_decode_stOk : decode (tx .encodeStatus [0b00000000#8, 0x55#8]) = .ok (.stOk [0x55#8]) := rfl
theorem test_decode_stLengthExceeded :
    decode (tx .encodeStatus [0b00000001#8, 0x00#8, 0x01#8, 0x00#8, 0x00#8]) = .ok (.stLengthExceeded 65536#32) := rfl

/-- Bytes that are no row: a code above four bits, a missing operand, a reserved byte from the escaper, a bad length. -/
theorem test_decode_refuses :
    decode (tx .request [0x10#8]) = .error .codeOutOfRange ∧ decode (tx .request [0x01#8]) = .error .operandLength ∧
    decode (tx .request []) = .error .noCode ∧ decode (tx .txSymbol [0xAA#8]) = .error .notATxSymbol ∧
    decode (tx .rxPending []) = .error .rawLength ∧
    decode (tx .feedResult [0x01#8, 0x00#8, 0x7B#8, 0x00#8, 0x01#8]) = .error .operandLength ∧
    decode (tx .encodeStatus [0x02#8]) = .error .codeOutOfRange := ⟨rfl, rfl, rfl, rfl, rfl, rfl, rfl⟩

/-! ### The host's table words (log 13) -/

theorem test_tableWord_requests :
    decodeTableWord 8 0 = some .nop ∧ decodeTableWord 8 1 = some (.feed 0#8) ∧
    decodeTableWord 8 4 = some (.crcUpd 0#32 0#8) ∧ decodeTableWord 8 15 = some (.reservedOp 7#3) := by decide

theorem test_tableWord_symbols :
    decodeTableWord 8 0x1B = some .escmark ∧ decodeTableWord 8 0x55 = some (.raw 0x55#8) ∧
    decodeTableWord 16 7082 = some .txEscMarker ∧ decodeTableWord 16 6939 = some .txEscEsc ∧
    decodeTableWord 32 1437226410 = some .preambleRecLittle ∧ decodeTableWord 32 2857740885 = some .preambleRecBig := by
  decide

theorem test_fetch_runs_the_word :
    nextOf (step (State.reset.withFetchWord 32 1437226410)) = nextOf (exec .preambleRecLittle State.reset) := by
  decide +kernel

/-! ### One step per row -/

/-- A small strict little-endian block (`MAXLEN = 3`). -/
def tiny : Cfg := { endian := .little, maxLen := 3#16, preamble := 0xAA55AA55#32 }

/-- The same, lenient. -/
def lax : Cfg := { tiny with lenient := true }

/-- The smallest block: `MAXLEN = 0`, `CAP = 9`. -/
def nul : Cfg := { tiny with maxLen := 0#16 }

/-- A receiver with the first bytes of its buffer given. -/
def rx (c : Cfg) (st : Stage) (cursor : Nat) (u : Bool) (bytes : List Byte) : State :=
  { State.resetWith c with state := st, cursor := cursor, unescaping := u, buf := Memory.writeN [] 0 bytes }

/-- The result an instruction gives. -/
def resultOf (i : Instr) (s : State) : Option Result := (nextOf (exec i s)).map (·.result)

/-- The receive registers, the event and the result an instruction leaves. -/
def regsOf (i : Instr) (s : State) : Option (Stage × Nat × Bool × Option Event × Result) :=
  (nextOf (exec i s)).map (fun t => (t.state, t.cursor, t.unescaping, t.event, t.result))

/-- The receiver of V4.1 before its last byte, at `MAXLEN = 0`. -/
def bodyEnd (c : Cfg) : State :=
  rx c .readingBody 8 false [0x7B#8, 0x00#8, 0x00#8, 0x00#8, 0x7B#8, 0x6A#8, 0x79#8, 0xD5#8]

theorem test_nop : resultOf .nop (rx tiny .readingBody 6 true []) = some .nothing := by decide

/-- V4.1 row 3. -/
theorem test_feed_preamble :
    regsOf (.feed 0xAA#8) (rx tiny .seekingPreamble 3 false [0x55#8, 0xAA#8, 0x55#8]) =
      some (.readingHeader, 0, false, some .evPreamble, .feed none) := by decide

/-- V4.1 row 12. -/
theorem test_feed_frame :
    regsOf (.feed 0x49#8) (bodyEnd nul) = some (.seekingPreamble, 0, false, some .evFrameOk,
      .feed (some { flags := 0x007B#16, payload := [], damaged := false })) := by decide +kernel

/-- V5.5b. -/
theorem test_encode :
    resultOf (.encode 0x00AA#16 [0x1B#8]) (rx { tiny with endian := .big } .seekingPreamble 0 false []) =
      some (.encoded [0xAA#8, 0x55#8, 0xAA#8, 0x55#8, 0x00#8, 0x1B#8, 0xAA#8, 0x00#8, 0x01#8, 0xAB#8, 0x1B#8, 0x1B#8,
        0xFC#8, 0xC3#8, 0x41#8, 0xCE#8]) := by decide +kernel

/-- R152: one byte more than `MAXLEN`. -/
theorem test_encode_too_long :
    resultOf (.encode 0#16 [1#8, 2#8, 3#8, 4#8]) (rx tiny .seekingPreamble 0 false []) = some (.lengthExceeded 4) := by
  decide

/-- V2.1, last row. -/
theorem test_hck :
    resultOf (.hck 0x12#8 0x34#8 0x56#8 0x78#8) (rx tiny .readingHeader 2 false []) = some (.byte 0x08#8) := by decide

/-- V2.3: `12345678`, `9A`. -/
theorem test_crcUpd :
    resultOf (.crcUpd 0x12345678#32 0x9A#8) (rx tiny .readingHeader 2 false []) = some (.word 0x4E16B702#32) := by
  decide +kernel

/-- V2.4: `"abc"`. -/
theorem test_crc32 :
    resultOf (.crc32 [0x61#8, 0x62#8, 0x63#8]) (rx tiny .readingHeader 2 false []) = some (.word 0xCA6598D0#32) := by
  decide +kernel

/-- V3.1. -/
theorem test_escEnc : resultOf (.escEnc 0xAA#8) (rx tiny .readingHeader 2 true []) = some (.bytes [0x1B#8, 0xAA#8]) := by
  decide
theorem test_escEnc_neighbour : resultOf (.escEnc 0x1C#8) (rx tiny .readingHeader 2 true []) = some (.bytes [0x1C#8]) := by
  decide

/-- V3.3. -/
theorem test_escape :
    resultOf (.escape [0xAA#8, 0x1B#8, 0x00#8, 0xAA#8]) (rx tiny .readingHeader 2 true []) =
      some (.bytes [0x1B#8, 0xAA#8, 0x1B#8, 0x1B#8, 0x00#8, 0x1B#8, 0xAA#8]) := by decide

/-- V4.7 row 8: the slide, and the bytes it leaves. -/
theorem test_raw_slide :
    let s := rx nul .seekingPreamble 8 false [1#8, 2#8, 3#8, 4#8, 5#8, 6#8, 7#8, 8#8]
    regsOf (.raw 9#8) s = some (.seekingPreamble, 4, false, some .evSlide, .feed none) ∧
    (nextOf (exec (.raw 9#8) s)).map (fun t => t.buf.readN 0 9) =
      some [6#8, 7#8, 8#8, 9#8, 5#8, 6#8, 7#8, 8#8, 9#8] := by decide

/-- R123: a preamble of another value, `1B 00 00 AA` on the wire in LITTLE order. -/
theorem test_preamble :
    regsOf (.preamble 0x1B0000AA#32) (rx { tiny with preamble := 0xAA00001B#32 } .seekingPreamble 0 false []) =
      some (.readingHeader, 0, false, some .evPreamble, .feed none) := by decide

/-- R61: each recommended image matches in its own order and not in the other. -/
theorem test_preambleRecLittle :
    regsOf .preambleRecLittle (rx tiny .seekingPreamble 0 false []) =
      some (.readingHeader, 0, false, some .evPreamble, .feed none) := by decide
theorem test_preambleRecLittle_other_order :
    regsOf .preambleRecLittle (rx { tiny with endian := .big } .seekingPreamble 0 false []) =
      some (.seekingPreamble, 4, false, some .evStore, .feed none) := by decide
theorem test_preambleRecBig :
    regsOf .preambleRecBig (rx { tiny with endian := .big } .seekingPreamble 0 false []) =
      some (.readingHeader, 0, false, some .evPreamble, .feed none) := by decide

/-- V4.2 rows 4 and 5: the marker is stored and not counted, the byte after it takes its place. -/
theorem test_escmark :
    regsOf .escmark (rx tiny .readingHeader 0 false []) = some (.readingHeader, 0, true, some .evEsc, .feed none) := by
  decide
theorem test_escaped :
    regsOf (.escaped 0xAA#8) (rx tiny .readingHeader 0 true [0x1B#8]) =
      some (.readingHeader, 1, false, some .evStore, .feed none) := by decide

/-- R111: an unescaped `MARKER` in a reading stage is data. -/
theorem test_literal :
    regsOf (.literal 0xAA#8) (rx tiny .readingHeader 1 false [0x7B#8]) =
      some (.readingHeader, 2, false, some .evStore, .feed none) := by decide

theorem test_txPlain : resultOf (.txPlain 0x55#8) (rx tiny .readingBody 5 true []) = some (.bytes [0x55#8]) := by decide
theorem test_txEscMarker : resultOf .txEscMarker (rx tiny .readingBody 5 true []) = some (.bytes [0x1B#8, 0xAA#8]) := by
  decide
theorem test_txEscEsc : resultOf .txEscEsc (rx tiny .readingBody 5 true []) = some (.bytes [0x1B#8, 0x1B#8]) := by decide

/-- V5.2a and V5.3a, field by field. -/
theorem test_fieldPreamble :
    resultOf (.fieldPreamble 0x55AA55AA#32) (rx tiny .seekingPreamble 0 false []) =
      some (.bytes [0x55#8, 0xAA#8, 0x55#8, 0xAA#8]) := by decide
theorem test_fieldFlags :
    resultOf (.fieldFlags 0xAA00#16) (rx tiny .seekingPreamble 0 false []) = some (.bytes [0x1B#8, 0xAA#8, 0x00#8]) := by
  decide
theorem test_fieldLength :
    resultOf (.fieldLength 0x0300#16) (rx tiny .seekingPreamble 0 false []) = some (.bytes [0x03#8, 0x00#8]) := by decide
theorem test_fieldHck : resultOf (.fieldHck 0xAA#8) (rx tiny .seekingPreamble 0 false []) = some (.bytes [0x1B#8, 0xAA#8]) := by
  decide
theorem test_fieldPayloadByte :
    resultOf (.fieldPayloadByte 0x1B#8) (rx tiny .seekingPreamble 0 false []) = some (.bytes [0x1B#8, 0x1B#8]) := by decide
theorem test_fieldCrc32 :
    resultOf (.fieldCrc32 0xBFF165AA#32) (rx tiny .seekingPreamble 0 false []) =
      some (.bytes [0xBF#8, 0xF1#8, 0x65#8, 0x1B#8, 0xAA#8]) := by decide

theorem test_resNone : resultOf .resNone (rx tiny .seekingPreamble 0 false []) = some (.feed none) := by decide
theorem test_resFrameValid :
    resultOf (.resFrameValid 7#16 [1#8]) (rx tiny .seekingPreamble 0 false []) =
      some (.feed (some { flags := 7#16, payload := [1#8], damaged := false })) := by decide
theorem test_resFrameDamaged :
    resultOf (.resFrameDamaged 7#16 [1#8]) (rx lax .seekingPreamble 0 false []) =
      some (.feed (some { flags := 7#16, payload := [1#8], damaged := true })) := by decide
theorem test_stOk : resultOf (.stOk [1#8]) (rx tiny .seekingPreamble 0 false []) = some (.encoded [1#8]) := by decide
theorem test_stLengthExceeded :
    resultOf (.stLengthExceeded 4#32) (rx tiny .seekingPreamble 0 false []) = some (.lengthExceeded 4) := by decide

/-! ### The host's write (R162, R163; V5.2a) -/

theorem test_writeFrame_sink_fails :
    writeFrame 0x007B#16 [] (.fails 2) [0x13#8] (rx tiny .readingHeader 2 false []) = .next
      { status := .sinkFailed, sink := [0x13#8, 0x55#8, 0xAA#8]
        block := { rx tiny .readingHeader 2 false [] with result := .encoded [0x55#8, 0xAA#8, 0x55#8, 0xAA#8, 0x7B#8, 0x00#8,
          0x00#8, 0x00#8, 0x7B#8, 0x6A#8, 0x79#8, 0xD5#8, 0x49#8] } } := rfl

/-! ### Reset -/

theorem test_reset : State.reset.Inv ∧ State.reset.fresh ∧ State.reset.cfg.maxLen = 65535#16 ∧ State.reset.cfg.legal := by
  decide

/-! ### The hypotheses of the statements can be met -/

/-- The receiver that seeks with an empty window. -/
def idle : State := rx tiny .seekingPreamble 0 false []

theorem witness_DecodeOfEncodeIsTheInstruction : (Instr.preamble 0x12345678#32).wellFormed = true := by decide

theorem witness_EncodeOfDecodeIsTheTransaction : decode (tx .rxReading [0x1A#8]) = .ok (.literal 0x1A#8) := rfl

theorem witness_TableWordsDecode : opCode (.reservedOp 0b111#3) = some 0b1111#4 ∧ opCode .nop = some 0b0000#4 := by decide

theorem witness_StepRunsTheDecodedInstruction :
    { idle with input := [tx .request [0x01#8, 0x55#8]] }.input = [tx .request [0x01#8, 0x55#8]] ∧
    decode (tx .request [0x01#8, 0x55#8]) = .ok (.feed 0x55#8) ∧ idle.input = [] ∧
    decode (tx .request [0x10#8]) = .error .codeOutOfRange := ⟨rfl, rfl, rfl, rfl⟩

theorem witness_BufferReadAfterWrite : (1 : Nat) ≠ 0 := by decide

theorem witness_HckIsTheXorOfFourBytes :
    pack16 .big 0x007B#16 ++ pack16 .big 1#16 = [0x00#8, 0x7B#8, 0x00#8, 0x01#8] ∧ (1#8 : Byte) ≠ 0#8 := by decide

theorem witness_CrcFeedbackWordIsTheRecipe : (7 : Nat) < 8 := by decide

theorem witness_BitSerialFormEqualsCrcUpd : (7 : Nat) < 8 ∧ (31 : Nat) < 32 := by decide

theorem witness_Crc32IsLinear : [0x01#8].length = [0x80#8].length := rfl

theorem witness_EscEncEscapesReservedBytes :
    ((0xAA#8 : Byte) = 0xAA#8 ∨ (0xAA#8 : Byte) = 0x1B#8) ∧ ((0x1B#8 : Byte) = 0xAA#8 ∨ (0x1B#8 : Byte) = 0x1B#8) ∧
    (0xAB#8 : Byte) ≠ 0xAA#8 ∧ (0xAB#8 : Byte) ≠ 0x1B#8 := by decide

theorem witness_EscapeIsBytewise : ∀ b ∈ [0x55#8, 0x00#8], b ≠ 0xAA#8 ∧ b ≠ 0x1B#8 := by decide

theorem witness_EscapeLengthAndMarkers : (escapeBytes [0x00#8, 0xAA#8])[2]? = some 0xAA#8 := by decide

theorem witness_UnescHasThreeArms :
    (rx tiny .readingHeader 2 true []).unescaping = true ∧ (rx tiny .readingHeader 2 false []).unescaping = false ∧
    (0x1A#8 : Byte) ≠ 0x1B#8 := by decide

theorem witness_UnescapeBatchForm : (0x1A#8 : Byte) ≠ 0x1B#8 := by decide

theorem witness_TxSymbolsAreTheEscapersOutput :
    (0x55#8 : Byte) ≠ 0xAA#8 ∧ (0x55#8 : Byte) ≠ 0x1B#8 ∧ ((0x1B#8 : Byte) = 0xAA#8 ∨ (0x1B#8 : Byte) = 0x1B#8) := by decide

/-- The match at the least cursor, the slide and the store of `FEED` in the seeking stage. -/
theorem witness_FeedInSeekingStage :
    let m := rx tiny .seekingPreamble 3 false [0x55#8, 0xAA#8, 0x55#8]
    let f := rx nul .seekingPreamble 8 false [1#8, 2#8, 3#8, 4#8, 5#8, 6#8, 7#8, 8#8]
    (m.state = .seekingPreamble ∧ m.cursor < m.cfg.cap ∧ 3 ≤ m.cursor ∧
      unpack32 m.cfg.endian (m.buf.read 0) (m.buf.read 1) (m.buf.read 2) 0xAA#8 = m.cfg.preamble) ∧
    (f.state = .seekingPreamble ∧ f.cursor < f.cfg.cap ∧ f.cursor + 1 = f.cfg.cap ∧
      unpack32 f.cfg.endian (f.buf.read 5) (f.buf.read 6) (f.buf.read 7) 9#8 ≠ f.cfg.preamble) ∧
    (idle.state = .seekingPreamble ∧ idle.cursor < idle.cfg.cap ∧ ¬3 ≤ idle.cursor ∧ idle.cursor + 1 ≠ idle.cfg.cap) := by
  decide

/-- A header received up to its checksum byte. -/
def headerEnd (n : Byte) : State := rx tiny .readingHeader 4 false [0x7B#8, 0x00#8, n, 0x00#8]

/-- A marker, a counted byte, and a fifth byte that is accepted at `N = MAXLEN`, of a wrong sum, of a length too great. -/
theorem witness_FeedInHeaderStage :
    let s := headerEnd 3#8
    let l := headerEnd 4#8
    s.state = .readingHeader ∧ s.cursor < s.cfg.cap ∧ s.unescaping = false ∧
    (rx tiny .readingHeader 3 false []).cursor ≠ 4 ∧ s.cursor = 4 ∧
    0x78#8 = s.buf.read 0 ^^^ s.buf.read 1 ^^^ s.buf.read 2 ^^^ s.buf.read 3 ∧
    (unpack16 s.cfg.endian (s.buf.read 2) (s.buf.read 3)).toNat ≤ s.cfg.maxLen.toNat ∧
    0x79#8 ≠ s.buf.read 0 ^^^ s.buf.read 1 ^^^ s.buf.read 2 ^^^ s.buf.read 3 ∧
    l.cursor = 4 ∧ 0x7F#8 = l.buf.read 0 ^^^ l.buf.read 1 ^^^ l.buf.read 2 ^^^ l.buf.read 3 ∧
    ¬(unpack16 l.cfg.endian (l.buf.read 2) (l.buf.read 3)).toNat ≤ l.cfg.maxLen.toNat := by decide

/-- A receiver one byte into the checksum of an empty frame. -/
def bodyMid (u : Bool) (last : Byte) : State :=
  rx nul .readingBody 6 u [0x7B#8, 0x00#8, 0x00#8, 0x00#8, 0x7B#8, 0x6A#8, last]

/-- The last byte right and wrong, in a strict and in a lenient block; a byte before it; a marker. -/
theorem witness_FeedInBodyStage :
    let s := bodyEnd nul
    let m := bodyMid false 0#8
    (s.Inv ∧ s.state = .readingBody) ∧ (s.unescaping = false ∧ (0x49#8 : Byte) ≠ 0x1B#8) ∧
    s.cursor + 1 = 5 + (unpack16 s.cfg.endian (s.buf.read 2) (s.buf.read 3)).toNat + 4 ∧
    (frameChecksum (s.buf.readN 0 5) = unpack32 s.cfg.endian (s.buf.read 5) (s.buf.read 6) (s.buf.read 7) 0x49#8 ∧
      frameChecksum (s.buf.readN 0 5) ≠ unpack32 s.cfg.endian (s.buf.read 5) (s.buf.read 6) (s.buf.read 7) 0x48#8) ∧
    s.cfg.lenient = false ∧
    ((bodyEnd { nul with lenient := true }).Inv ∧ (bodyEnd { nul with lenient := true }).state = .readingBody) ∧
    (m.Inv ∧ m.state = .readingBody ∧ m.unescaping = false) ∧
    m.cursor + 1 ≠ 5 + (unpack16 m.cfg.endian (m.buf.read 2) (m.buf.read 3)).toNat + 4 :=
  ⟨by decide, by decide, by decide, by decide +kernel, rfl, by decide, by decide, by decide⟩

theorem witness_FeedIsTheSymbolOfTheByte :
    idle.state = .seekingPreamble ∧ (bodyMid true 0x1B#8).state ≠ .seekingPreamble ∧ (bodyMid true 0x1B#8).unescaping = true ∧
    (bodyMid false 0#8).state ≠ .seekingPreamble ∧ (bodyMid false 0#8).unescaping = false := by decide

/-- `cursor` at the last index of the buffer, in each stage and with each flag. -/
theorem witness_ReceiveSymbolsComplete :
    (rx nul .seekingPreamble 8 false []).cursor < nul.cap ∧ (rx nul .readingBody 8 true []).cursor < nul.cap ∧
    (rx nul .readingBody 8 true []).state ≠ .seekingPreamble ∧ (rx nul .readingBody 8 true []).unescaping = true ∧
    (bodyEnd nul).unescaping = false ∧ (bodyEnd nul).cursor < nul.cap := by decide

theorem witness_AnyByteMayFollowAnEscapeMarker :
    (bodyMid false 0#8).Inv ∧ (bodyMid false 0#8).state ≠ .seekingPreamble ∧ (bodyMid false 0#8).unescaping = false := by
  decide

theorem witness_PreambleRowsFromAnEmptyWindow :
    idle.state = .seekingPreamble ∧ idle.cursor = 0 ∧ ofImage32 idle.cfg.endian 0x55AA55AA#32 = idle.cfg.preamble ∧
    ofImage32 idle.cfg.endian 0xAA55AA55#32 ≠ idle.cfg.preamble := by decide

theorem witness_PreambleRowsAreFourFeeds :
    (rx nul .seekingPreamble 8 false []).Inv ∧ (rx nul .seekingPreamble 8 false []).state = .seekingPreamble ∧
    (bodyEnd nul).state ≠ .seekingPreamble := by decide

/-- An invariant state, pending a feed, and its step. -/
theorem witness_EveryStepKeepsTheInvariant :
    let s := { bodyEnd nul with input := [tx .request [0x01#8, 0x49#8]] }
    s.Inv ∧ (nextOf (step s)).isSome = true := by decide +kernel

theorem witness_EveryRequestCompletes : (bodyEnd nul).Inv ∧ isRequestRow (.feed 0x49#8) = true := by decide

theorem witness_ConfigurationNeverChanges :
    exec .nop idle = .next { idle with result := .nothing } ∧ step idle = .next { idle with result := .nothing } := ⟨rfl, rfl⟩

theorem witness_CursorFitsItsWidth : (bodyEnd nul).Inv ∧ resetCfg.maxLen = 65535#16 := by decide

theorem witness_OnlyRawBytesMoveTheReceiver :
    isReceiveRow .txEscEsc = false ∧ (nextOf (exec .txEscEsc idle)).isSome = true := by decide

theorem witness_EncodeAndFeedDoNotAffectEachOther : (bodyEnd nul).cursor < (bodyEnd nul).cfg.cap := by decide

/-- A row that completes, one that faults (in a state no run reaches), one that is refused. -/
theorem witness_PortAndTraceAreNeverRead :
    (nextOf (exec (.feed 0#8) idle)).isSome = true ∧
    exec (.feed 0#8) (rx nul .seekingPreamble 9 false []) = .fault .bufferBounds ∧
    exec .escmark idle = .refused .notThisSymbol := ⟨by decide, rfl, rfl⟩

theorem witness_NoOtherStageTransition : (nextOf (exec (.feed 0x49#8) (bodyEnd nul))).isSome = true := by decide +kernel

theorem witness_FramesComeOnlyFromACompletedBody :
    resultOf (.feed 0x48#8) (bodyEnd { nul with lenient := true }) =
      some (.feed (some { flags := 0x007B#16, payload := [], damaged := true })) := by decide +kernel

/-- Two receivers that differ in a stale byte and in the trace name only; a feed, and a row that is none with equal names. -/
theorem witness_StaleBufferBytesNeverMatter :
    let t := { bodyEnd nul with buf := (bodyEnd nul).buf.write 8 0xEE#8, event := some .evEsc }
    isReceiveRow (.feed 0x49#8) = true ∧ t.event ≠ (bodyEnd nul).event ∧ idle.event = idle.event ∧
    (bodyEnd nul).Inv ∧ t.state = (bodyEnd nul).state ∧ t.buf ≠ (bodyEnd nul).buf ∧
    (∀ a, a < (bodyEnd nul).cursor → t.buf.read a = (bodyEnd nul).buf.read a) ∧
    (nextOf (exec (.feed 0x49#8) (bodyEnd nul))).isSome = true := by decide +kernel

/-- A header rejected, and a body completed. -/
theorem witness_ResynchronisedReceiverActsAsReset :
    (headerEnd 3#8).Inv ∧ (headerEnd 3#8).state ≠ .seekingPreamble ∧
    regsOf (.feed 0x79#8) (headerEnd 3#8) = some (.seekingPreamble, 0, false, some .evHdrBadCk, .feed none) ∧
    (bodyEnd nul).Inv ∧ (bodyEnd nul).state ≠ .seekingPreamble ∧
    regsOf (.feed 0x48#8) (bodyEnd nul) = some (.seekingPreamble, 0, false, some .evFrameDamaged, .feed none) :=
  ⟨by decide, by decide, by decide, by decide, by decide, by decide +kernel⟩

theorem witness_ChunksAndPausesDoNotMatter :
    ∃ u p, feedSeq [0x55#8] idle = .next (u, []) ∧ exec .nop u = .next p := ⟨_, _, rfl, rfl⟩

theorem witness_QueuedFeedsAreServedInOrder :
    idle.input = [] ∧ ∃ u, feedSeq [0x55#8, 0xAA#8] idle = .next (u, []) := ⟨rfl, _, rfl⟩

theorem witness_HalfWordByteOrder : pack16 .big 0x007B#16 = [0x00#8, 0x7B#8] := by decide

theorem witness_WordByteOrder : pack32 .big 0x12345678#32 = [0x12#8, 0x34#8, 0x56#8, 0x78#8] := by decide

theorem witness_HeaderPackIsFlagsLengthAndChecksum :
    pack16 .little 0x00AA#16 ++ pack16 .little 1#16 = [0xAA#8, 0x00#8, 0x01#8, 0x00#8] := by decide

theorem witness_EncodeGivesTheFrameOrLengthExceeded :
    (∀ b ∈ frameContent tiny.endian 0x007B#16 [], b ≠ 0xAA#8 ∧ b ≠ 0x1B#8) ∧
    idle.cfg.maxLen.toNat < [1#8, 2#8, 3#8, 4#8].length ∧ [1#8, 2#8, 3#8].length ≤ idle.cfg.maxLen.toNat := by
  decide +kernel

theorem witness_ContentLayout : (2#16 : Half).toNat = [0x61#8, 0x62#8].length := rfl

theorem witness_WireLength :
    encodeFrame tiny 0#16 [] = .encoded [0x55#8, 0xAA#8, 0x55#8, 0xAA#8, 0#8, 0#8, 0#8, 0#8, 0#8, 0#8, 0#8, 0#8, 0#8] := by
  decide +kernel

theorem witness_FieldRowsComplete :
    ofImage32 idle.cfg.endian 0x55AA55AA#32 = idle.cfg.preamble ∧ ofImage32 idle.cfg.endian 0#32 ≠ idle.cfg.preamble ∧
    (ofImage16 idle.cfg.endian 0x0300#16).toNat ≤ idle.cfg.maxLen.toNat ∧
    idle.cfg.maxLen.toNat < (ofImage16 idle.cfg.endian 0x0400#16).toNat := by decide

theorem witness_EncodeIsItsFieldsInOrder : [1#8, 2#8, 3#8].length ≤ idle.cfg.maxLen.toNat := by decide

theorem witness_EscapedContentCannotImitateThePreamble :
    (pack32 .little 0xAA55AA55#32)[1]? = some 0xAA#8 ∧ (pack32 .little 0xAA55AA55#32)[0]? ≠ some 0x1B#8 ∧
    (pack32 .big 0xAA55AA55#32)[2]? = some 0xAA#8 ∧ (pack32 .big 0xAA55AA55#32)[1]? ≠ some 0x1B#8 := by decide

theorem witness_ResultRowsComplete :
    [1#8, 2#8, 3#8].length ≤ tiny.maxLen.toNat ∧ lax.lenient = true ∧ tiny.maxLen.toNat < (4#32 : Word).toNat ∧
    tiny.maxLen.toNat < [1#8, 2#8, 3#8, 4#8].length ∧ tiny.lenient = false ∧ (3#32 : Word).toNat ≤ tiny.maxLen.toNat := by
  decide

theorem witness_EveryResultHasItsRow :
    (bodyEnd nul).Inv ∧ (nextOf (exec (.feed 0x49#8) (bodyEnd nul))).isSome = true ∧
    [1#8, 2#8, 3#8, 4#8].length < 2 ^ 32 ∧ (nextOf (exec (.encode 0#16 [1#8, 2#8, 3#8, 4#8]) idle)).isSome = true := by
  decide +kernel

/-- The empty window, and the window `01 02 03` at the end of a full buffer. -/
theorem witness_RoundTrip :
    let s := rx nul .seekingPreamble 8 false [0#8, 0#8, 0#8, 0#8, 0#8, 1#8, 2#8, 3#8]
    (idle.fresh ∧ [1#8, 2#8, 3#8].length ≤ idle.cfg.maxLen.toNat) ∧ (s.Inv ∧ s.state = .seekingPreamble) ∧
    noEarlyMatch s.cfg (s.buf.readN (s.cursor - min s.cursor 3) (min s.cursor 3)) := ⟨by decide, by decide, by decide⟩

/-- V4.5's garbage `00 FF 55 1B AA`. -/
theorem witness_ResynchronisationAfterGarbage :
    idle.fresh ∧ noEarlyMatch idle.cfg [0x00#8, 0xFF#8, 0x55#8, 0x1B#8, 0xAA#8] := by decide

theorem witness_ReadFrameGivesWhatWriteFrameWrote :
    idle.fresh ∧ idle.cfg = (bodyEnd tiny).cfg ∧ [1#8, 2#8, 3#8].length ≤ idle.cfg.maxLen.toNat ∧
    idle.cfg.maxLen.toNat < [1#8, 2#8, 3#8, 4#8].length := by decide

theorem witness_EndOfStreamChangesNothing :
    ∃ u, readFrame [0x55#8] idle = .next { frame := none, source := [], block := u } := ⟨_, rfl⟩

end Sys2Proof.Tests
end

section
/-! PROOF. The statements of 00_scope.md: the width of `cursor` (R10), the buffer (R13), and the independence of the two
agents (R7), whose key fact is that a feed reads neither the result port nor the trace name. -/

namespace Sys2Proof

/-- `CURSOR_W` bits hold every value of `0 .. CAP` (R10). -/
theorem Cfg.cap_lt_two_pow_cursorWidth (c : Cfg) : c.cap < 2 ^ c.cursorWidth :=
  Nat.le_pow_clog Nat.one_lt_two (c.cap + 1)

/-- `CAP` at the default `MAXLEN` (R8, R9). -/
theorem Cfg.cap_of_default {c : Cfg} (h : c.maxLen = 65535#16) : c.cap = 65544 := by
  simp [Cfg.cap, h, Config.lenHeader, Config.lenCrc]

end Sys2Proof

namespace Sys2Proof.Machine

/-! ### The buffer -/

/-- Settles O7: both halves are the two cases of `Memory.read_write`. -/
theorem bufferReadAfterWrite : Obligations.BufferReadAfterWrite := by
  intro m a b
  exact ⟨Memory.read_write_same m a b, fun x hx => Memory.read_write_other m b hx⟩

/-! ### The width of `cursor` -/

/-- Settles O35: `cursor` is below `CAP` by the invariants, and `CAP` fits. -/
theorem cursorFitsItsWidth : Obligations.CursorFitsItsWidth := by
  refine ⟨fun s hs => ?_, fun c hc => ?_⟩
  · obtain ⟨-, hcursor, -⟩ := hs
    exact hcursor.trans (Cfg.cap_lt_two_pow_cursorWidth s.cfg)
  · have hcap : c.cap = 65544 := Cfg.cap_of_default hc
    refine ⟨hcap, ?_⟩
    rw [Cfg.cursorWidth, hcap]
    norm_num

/-! ### A feed overwrites the result port and the trace name and reads neither -/

/-- `UNESC` hands the port and the trace name through. -/
theorem unescape_set_port (d : Byte) (s : State) (r : Result) (e : Option Event) :
    unescape d { s with result := r, event := e } =
      ({ (unescape d s).1 with result := r, event := e }, (unescape d s).2) := by
  cases hu : s.unescaping with
  | true => simp [unescape, hu, State.storeAtCursor, State.advance, State.clearUnescaping]
  | false =>
    by_cases hd : d = Config.esc
    · simp [unescape, hu, hd, State.storeAtCursor, State.setUnescaping]
    · simp [unescape, hu, hd, State.storeAtCursor, State.advance]

/-- The header completion check overwrites the trace name and hands the port through. -/
theorem headerDone_set_port (s : State) (r : Result) (e : Option Event) :
    headerDone { s with result := r, event := e } = { headerDone s with result := r } := by
  have hck : headerChecksumOk { s with result := r, event := e } = headerChecksumOk s := rfl
  have hlen : headerLengthOk { s with result := r, event := e } = headerLengthOk s := rfl
  unfold headerDone
  rw [hck, hlen]
  cases headerChecksumOk s
  · rfl
  · cases headerLengthOk s <;> rfl

theorem seekStep_set_port (d : Byte) (s : State) (r : Result) (e : Option Event) :
    seekStep d { s with result := r, event := e } = seekStep d s := rfl

theorem headerStep_set_port (d : Byte) (s : State) (r : Result) (e : Option Event) :
    headerStep d { s with result := r, event := e } = headerStep d s := by
  unfold headerStep
  rw [unescape_set_port]
  obtain ⟨t, completed⟩ := unescape d s
  cases completed
  · rfl
  · simp only [headerDone_set_port]
    rfl

theorem bodyStep_set_port (d : Byte) (s : State) (r : Result) (e : Option Event) :
    bodyStep d { s with result := r, event := e } = bodyStep d s := by
  unfold bodyStep
  rw [unescape_set_port]
  obtain ⟨t, completed⟩ := unescape d s
  cases completed <;> rfl

/-- A feed leaves the same state whatever the result port and the trace name held before it (R139, log 4, log 12). -/
theorem feedStep_set_port (d : Byte) (s : State) (r : Result) (e : Option Event) :
    feedStep d { s with result := r, event := e } = feedStep d s := by
  obtain ⟨stage, c, u, m, cfg, r₀, e₀, pending⟩ := s
  cases stage with
  | seekingPreamble => exact seekStep_set_port d _ r e
  | readingHeader => exact headerStep_set_port d _ r e
  | readingBody => exact bodyStep_set_port d _ r e

/-- The bounds check reads neither as well, so that the outcomes agree where the feed faults too. -/
theorem feedByte_set_port (d : Byte) (s : State) (r : Result) (e : Option Event) :
    feedByte d { s with result := r, event := e } = feedByte d s := by
  unfold feedByte
  rw [feedStep_set_port]

/-! ### The two agents -/

/-- Settles O37: `ENCODE` writes the result port alone, which the feed does not read, and reads the configuration alone,
which the feed does not write. -/
theorem encodeAndFeedDoNotAffectEachOther : Obligations.EncodeAndFeedDoNotAffectEachOther := by
  intro s d flags payload hs
  have hfeed : exec (.feed d) s = .next (feedStep d s) := feedByte_of_lt hs
  have hfeedAfter : exec (.feed d) { s with result := encodeFrame s.cfg flags payload } = .next (feedStep d s) :=
    (feedByte_set_port d s _ s.event).trans hfeed
  obtain ⟨hcfg, -⟩ := feedStep_same d s
  have hresult : encodeFrame (feedStep d s).cfg flags payload = encodeFrame s.cfg flags payload := by rw [hcfg]
  exact ⟨_, _, _, _, hfeed, exec_encode flags payload s, exec_encode flags payload (feedStep d s), hfeedAfter,
    hresult, rfl, rfl, rfl, rfl, rfl, rfl, rfl⟩

end Sys2Proof.Machine
end

section
/-! PROOF. The statements of 10_state.md: reset (R33), the invariants (R31) and what moves the receiver (R20). Two facts about
one feed carry them: it keeps the invariants, and it reads no buffer byte at or above `cursor` (R24). -/

namespace Sys2Proof

/-- `CAP` is `MAXLEN + 9` (R9, R24). -/
theorem Cfg.cap_eq (c : Cfg) : c.cap = c.maxLen.toNat + 9 := rfl

end Sys2Proof

namespace Sys2Proof.Machine

/-! ### What an operation reads of the buffer -/

/-- Same configuration, and the same bytes below `n`. -/
abbrev State.agreeBelow (s t : State) (n : Nat) : Prop :=
  t.cfg = s.cfg ∧ ∀ a, a < n → t.buf.read a = s.buf.read a

namespace State.agreeBelow

variable {s t : State} {n : Nat}

theorem rd16_eq (h : s.agreeBelow t n) {a : Nat} (ha : a + 2 ≤ n) : t.rd16 a = s.rd16 a := by
  obtain ⟨hcfg, hread⟩ := h
  simp only [State.rd16, hcfg, hread a (by omega), hread (a + 1) (by omega)]

theorem rd32_eq (h : s.agreeBelow t n) {a : Nat} (ha : a + 4 ≤ n) : t.rd32 a = s.rd32 a := by
  obtain ⟨hcfg, hread⟩ := h
  simp only [State.rd32, hcfg, hread a (by omega), hread (a + 1) (by omega), hread (a + 2) (by omega),
    hread (a + 3) (by omega)]

theorem rxFlags_eq (h : s.agreeBelow t n) (hn : 2 ≤ n) : t.rxFlags = s.rxFlags := h.rd16_eq hn

theorem rxLength_eq (h : s.agreeBelow t n) (hn : 4 ≤ n) : t.rxLength = s.rxLength :=
  congrArg BitVec.toNat (h.rd16_eq hn)

theorem rxPayload_eq (h : s.agreeBelow t n) (hn : 5 + s.rxLength ≤ n) : t.rxPayload = s.rxPayload := by
  simp only [State.rxPayload, h.rxLength_eq (by omega), Config.lenHeader]
  exact Memory.readN_congr fun x _ hx => h.2 x (by omega)

theorem headerChecksumOk_eq (h : s.agreeBelow t n) (hn : 5 ≤ n) : headerChecksumOk t = headerChecksumOk s := by
  obtain ⟨-, hread⟩ := h
  simp only [headerChecksumOk, hread 0 (by omega), hread 1 (by omega), hread 2 (by omega), hread 3 (by omega),
    hread 4 (by omega)]

theorem headerLengthOk_eq (h : s.agreeBelow t n) (hn : 4 ≤ n) : headerLengthOk t = headerLengthOk s := by
  simp only [headerLengthOk, h.rxLength_eq hn, h.1]

theorem bodyCheck_eq (h : s.agreeBelow t n) (hn : 5 + s.rxLength + 4 ≤ n) : bodyCheck t = bodyCheck s := by
  have hlen : t.rxLength = s.rxLength := h.rxLength_eq (by omega)
  have hcovered : t.buf.readN 0 (5 + s.rxLength) = s.buf.readN 0 (5 + s.rxLength) :=
    Memory.readN_congr fun x _ hx => h.2 x (by omega)
  have hcrc : t.rd32 (5 + s.rxLength) = s.rd32 (5 + s.rxLength) := h.rd32_eq hn
  simp only [bodyCheck, State.rxCrc, Config.lenHeader, hlen, hcovered, hcrc]

theorem preambleMatch_eq (h : s.agreeBelow t n) (hcursor : t.cursor = s.cursor) (h4 : 4 ≤ s.cursor) (hn : s.cursor ≤ n) :
    preambleMatch t = preambleMatch s := by
  simp only [preambleMatch, hcursor, h.1, h.rd32_eq (a := s.cursor - 4) (by omega)]

end State.agreeBelow

/-- The store of a feed leaves the bytes below `cursor` as they were. -/
theorem State.agreeBelow_counted (s : State) (d : Byte) : s.agreeBelow (s.counted d) s.cursor :=
  ⟨rfl, fun _ ha => Memory.read_write_other s.buf d (Nat.ne_of_lt ha)⟩

/-! ### The invariants, stage by stage -/

theorem headerChecksumOk_iff (s : State) :
    headerChecksumOk s = true ↔
      s.buf.read 4 = s.buf.read 0 ^^^ s.buf.read 1 ^^^ s.buf.read 2 ^^^ s.buf.read 3 := by
  simp [headerChecksumOk, headerChecksum]

theorem headerLengthOk_iff (s : State) : headerLengthOk s = true ↔ s.rxLength ≤ s.cfg.maxLen.toNat := by
  simp [headerLengthOk]

theorem State.inv_of_seeking {s : State} (hbuf : s.bufferCanonical) (hst : s.state = .seekingPreamble)
    (hu : s.unescaping = false) (hcur : s.cursor < s.cfg.cap) : s.Inv :=
  ⟨hbuf, hcur, fun _ => hu, by simp [hst], by simp [hst], by simp [hu]⟩

theorem State.inv_of_header {s : State} (hbuf : s.bufferCanonical) (hst : s.state = .readingHeader)
    (hcur : s.cursor ≤ 4) (hpending : s.unescaping = true → s.buf.read s.cursor = Config.esc) : s.Inv := by
  have hcap := s.cfg.cap_eq
  exact ⟨hbuf, by omega, by simp [hst], fun _ => hcur, by simp [hst], fun hu => ⟨by simp [hst], hpending hu⟩⟩

theorem State.inv_of_body {s : State} (hbuf : s.bufferCanonical) (hst : s.state = .readingBody)
    (hck : headerChecksumOk s = true) (hlen : headerLengthOk s = true) (hlow : 5 ≤ s.cursor)
    (hhigh : s.cursor ≤ 5 + s.rxLength + 3) (hpending : s.unescaping = true → s.buf.read s.cursor = Config.esc) :
    s.Inv := by
  have hcap := s.cfg.cap_eq
  rw [headerLengthOk_iff] at hlen
  rw [headerChecksumOk_iff] at hck
  exact ⟨hbuf, by omega, by simp [hst], by simp [hst], fun _ => ⟨hlen, hck, hlow, hhigh⟩,
    fun hu => ⟨by simp [hst], hpending hu⟩⟩

/-- The store of a feed keeps the canonical form. -/
theorem State.bufferCanonical_counted {s : State} (d : Byte) (hbuf : s.bufferCanonical)
    (hcur : s.cursor < s.cfg.cap) : (s.counted d).bufferCanonical :=
  ⟨Memory.wf_write hbuf.1 s.cursor d, Memory.bound_write hbuf.2 hcur⟩

/-- Reset meets the invariants, whatever the configuration. -/
theorem State.inv_resetWith (c : Cfg) : (State.resetWith c).Inv :=
  State.inv_of_seeking ⟨Memory.wf_nil, by simp⟩ rfl rfl (Nat.succ_pos _)

/-- Settles O31: `State.reset` is one of the reset states `State.inv_resetWith` speaks of. -/
theorem invariantHoldsAfterReset : Obligations.InvariantHoldsAfterReset :=
  ⟨State.inv_resetWith, State.inv_resetWith resetCfg⟩

/-! ### A feed keeps the invariants -/

/-- A match opens the header stage at `cursor` 0, a full buffer slides to `cursor` 4, and else the store leaves room. -/
theorem seekStep_inv (d : Byte) {s : State} (hs : s.Inv) (hst : s.state = .seekingPreamble) : (seekStep d s).Inv := by
  obtain ⟨hbuf, hcur, hflag, -, -, -⟩ := hs
  have hu : s.unescaping = false := hflag hst
  have hcap := s.cfg.cap_eq
  obtain ⟨hwf, hbound⟩ := State.bufferCanonical_counted d hbuf hcur
  rcases seekStep_cases d s with ⟨-, -, h⟩ | ⟨-, -, h⟩ | ⟨-, hroom, h⟩ <;> rw [h]
  · exact State.inv_of_header ⟨hwf, hbound⟩ rfl (Nat.zero_le 4) (by simp [hu])
  · refine State.inv_of_seeking ⟨Memory.wf_writeN hwf 0 _, Memory.bound_writeN hbound ?_⟩ hst hu ?_
    · rw [Memory.length_readN]
      show 0 + 4 ≤ s.cfg.cap
      omega
    · show 4 < s.cfg.cap
      omega
  · exact State.inv_of_seeking ⟨hwf, hbound⟩ hst hu (show s.cursor + 1 < s.cfg.cap by omega)

/-- The header completion check opens the body stage only over a valid header (R129 to R131). -/
theorem headerDone_inv {s : State} (hbuf : s.bufferCanonical) (hu : s.unescaping = false) (hcur : s.cursor = 5) :
    (headerDone s).Inv := by
  have hcap : 0 < s.cfg.cap := Nat.succ_pos _
  rcases headerDone_cases s with ⟨hck, hlen, h⟩ | ⟨-, -, h⟩ | ⟨-, h⟩ <;> rw [h]
  · exact State.inv_of_body hbuf rfl hck hlen hcur.ge (show s.cursor ≤ 5 + s.rxLength + 3 by omega) (by simp [hu])
  · exact State.inv_of_seeking hbuf rfl hu hcap
  · exact State.inv_of_seeking hbuf rfl hu hcap

theorem headerStep_inv (d : Byte) {s : State} (hs : s.Inv) (hst : s.state = .readingHeader) : (headerStep d s).Inv := by
  obtain ⟨hbuf, hcur, -, hheader, -, -⟩ := hs
  have hle : s.cursor ≤ 4 := hheader hst
  have hcanon : (s.counted d).bufferCanonical := State.bufferCanonical_counted d hbuf hcur
  rcases headerStep_cases d s with ⟨-, hd, h⟩ | ⟨-, hmore, h⟩ | ⟨-, hlast, h⟩ <;> rw [h]
  · exact State.inv_of_header hcanon hst hle (by simp [hd])
  · exact State.inv_of_header hcanon hst (show s.cursor + 1 ≤ 4 by omega) (by simp)
  · exact headerDone_inv hcanon rfl (congrArg (· + 1) hlast)

/-- In the body stage the store is at index 5 or above, so that the header read from the buffer stays the valid one. -/
theorem bodyStep_inv (d : Byte) {s : State} (hs : s.Inv) (hst : s.state = .readingBody) : (bodyStep d s).Inv := by
  obtain ⟨hbuf, hcur, -, -, hbody, -⟩ := hs
  obtain ⟨hlen, hck, hlow, hhigh⟩ := hbody hst
  have hcanon : (s.counted d).bufferCanonical := State.bufferCanonical_counted d hbuf hcur
  have hagree : s.agreeBelow (s.counted d) s.cursor := s.agreeBelow_counted d
  have hck' : headerChecksumOk (s.counted d) = true :=
    (hagree.headerChecksumOk_eq hlow).trans ((headerChecksumOk_iff s).mpr hck)
  have hlen' : headerLengthOk (s.counted d) = true :=
    (hagree.headerLengthOk_eq (by omega)).trans ((headerLengthOk_iff s).mpr hlen)
  have hN : (s.counted d).rxLength = s.rxLength := hagree.rxLength_eq (by omega)
  rcases bodyStep_cases d s with ⟨-, hd, h⟩ | ⟨-, hmore, h⟩ | ⟨-, -, h⟩ <;> rw [h]
  · exact State.inv_of_body hcanon hst hck' hlen' hlow
      (show s.cursor ≤ 5 + (s.counted d).rxLength + 3 by omega) (by simp [hd])
  · exact State.inv_of_body hcanon hst hck' hlen' (show 5 ≤ s.cursor + 1 by omega)
      (show s.cursor + 1 ≤ 5 + (s.counted d).rxLength + 3 by omega) (by simp)
  · exact State.inv_of_seeking hcanon rfl rfl (Nat.succ_pos _)

theorem feedStep_inv (d : Byte) {s : State} (hs : s.Inv) : (feedStep d s).Inv := by
  cases hst : s.state with
  | seekingPreamble => exact feedStep_seeking hst ▸ seekStep_inv d hs hst
  | readingHeader => exact feedStep_header hst ▸ headerStep_inv d hs hst
  | readingBody => exact feedStep_body hst ▸ bodyStep_inv d hs hst

theorem State.Inv.cursor_lt_cap {s : State} (hs : s.Inv) : s.cursor < s.cfg.cap := by
  obtain ⟨-, hcur, -⟩ := hs
  exact hcur

theorem feedByte_of_inv (d : Byte) {s : State} (hs : s.Inv) : feedByte d s = .next (feedStep d s) :=
  feedByte_of_lt hs.cursor_lt_cap

/-- From the invariants every byte sequence is accepted, and leaves them. -/
theorem feedSeq_of_inv (ds : List Byte) {s : State} (hs : s.Inv) :
    ∃ u frames, feedSeq ds s = .next (u, frames) ∧ u.Inv := by
  induction ds generalizing s with
  | nil => exact ⟨s, [], rfl, hs⟩
  | cons d ds ih =>
    obtain ⟨u, frames, hrest, hu⟩ := ih (feedStep_inv d hs)
    exact ⟨u, _, feedSeq_cons_next_iff.mpr ⟨_, frames, feedByte_of_inv d hs, hrest, rfl⟩, hu⟩

theorem feedSeq_inv {ds : List Byte} {s t : State} {frames : List Frame} (hs : s.Inv)
    (h : feedSeq ds s = .next (t, frames)) : t.Inv := by
  obtain ⟨u, fs, hu, hinv⟩ := feedSeq_of_inv ds hs
  obtain ⟨rfl, -⟩ : u = t ∧ fs = frames := by simpa [hu] using h
  exact hinv

/-! ### What a row can do: feeds, or an answer on the result port -/

/-- Where the outcome is a next state, it is `s` with another result. -/
def answersOnly (s : State) (o : Host.Outcome State Fault Refusal) : Prop := ∀ t, o = .next t → ∃ r, t = s.respond r

theorem answersOnly_next (s : State) (r : Result) : answersOnly s (.next (s.respond r)) := by
  rintro t ⟨⟩
  exact ⟨r, rfl⟩

theorem answersOnly_refused (s : State) (x : Refusal) : answersOnly s (.refused x) := nofun

theorem answersOnly_ite {s : State} {p : Prop} [Decidable p] {a b : Host.Outcome State Fault Refusal}
    (ha : answersOnly s a) (hb : answersOnly s b) : answersOnly s (if p then a else b) := by
  split
  · exact ha
  · exact hb

/-- A row that is no raw byte answers, tests its operand and then answers, or is refused. -/
theorem exec_answersOnly {i : Instr} (s : State) (hi : isReceiveRow i = false) : answersOnly s (exec i s) := by
  cases i with
  | feed | raw | preamble | preambleRecLittle | preambleRecBig | escaped | escmark | literal => cases hi
  | nop | encode | hck | crcUpd | crc32 | escEnc | escape | txEscMarker | txEscEsc | fieldFlags | fieldHck
    | fieldPayloadByte | fieldCrc32 | resNone | stOk => exact answersOnly_next s _
  | txPlain => exact answersOnly_ite (answersOnly_refused s _) (answersOnly_next s _)
  | fieldPreamble | fieldLength | resFrameValid | resFrameDamaged | stLengthExceeded =>
    exact answersOnly_ite (answersOnly_next s _) (answersOnly_refused s _)
  | reservedOp | resReserved => exact answersOnly_refused s _

/-- Settles O36: such a row writes the result port alone. -/
theorem onlyRawBytesMoveTheReceiver : Obligations.OnlyRawBytesMoveTheReceiver := by
  intro i s t hi h
  obtain ⟨r, rfl⟩ := exec_answersOnly s hi t h
  exact ⟨⟨rfl, rfl, rfl, rfl, rfl, rfl⟩, rfl⟩

theorem feedSeq_singleton {d : Byte} {s t : State} (h : feedByte d s = .next t) :
    feedSeq [d] s = .next (t, frameOf t.result) :=
  feedSeq_cons_next_iff.mpr ⟨t, [], h, rfl, (List.append_nil _).symm⟩

/-- A row that is raw bytes leaves what some feeds leave. -/
theorem exec_receive_feedSeq {i : Instr} {s t : State} (hi : isReceiveRow i = true) (h : exec i s = .next t) :
    ∃ ds frames, feedSeq ds s = .next (t, frames) := by
  cases i with
  | feed d => exact ⟨_, _, feedSeq_singleton h⟩
  | raw d => exact ⟨_, _, feedSeq_singleton (exec_raw_next_iff.mp h).2⟩
  | escaped d => exact ⟨_, _, feedSeq_singleton (exec_escaped_next_iff.mp h).2⟩
  | escmark => exact ⟨_, _, feedSeq_singleton (exec_escmark_next_iff.mp h).2⟩
  | literal d => exact ⟨_, _, feedSeq_singleton (exec_literal_next_iff.mp h).2⟩
  | preamble p => exact ⟨_, feedSymbol_next_iff.mp (exec_preamble_next_iff.mp h).2⟩
  | preambleRecLittle => exact ⟨_, feedSymbol_next_iff.mp (exec_preamble_next_iff (p := recLittleImage).mp h).2⟩
  | preambleRecBig => exact ⟨_, feedSymbol_next_iff.mp (exec_preamble_next_iff (p := recBigImage).mp h).2⟩
  | _ => cases hi

/-! ### Every step keeps the invariants -/

theorem exec_inv {i : Instr} {s t : State} (hs : s.Inv) (h : exec i s = .next t) : t.Inv := by
  cases hi : isReceiveRow i with
  | true =>
    obtain ⟨ds, frames, hfeeds⟩ := exec_receive_feedSeq hi h
    exact feedSeq_inv hs hfeeds
  | false =>
    obtain ⟨r, rfl⟩ := exec_answersOnly s hi t h
    exact hs

/-- A step that answers a next state runs one row, with what is left of the transactions. -/
theorem step_next_exec {s t : State} (h : step s = .next t) :
    ∃ i rest, exec i { s with input := rest } = .next t := by
  unfold step at h
  split at h
  · exact ⟨.nop, s.input, h⟩
  · rename_i rest _
    split at h
    · cases h
    · rename_i i _
      exact ⟨i, rest, h⟩

/-- Settles O32: a step runs one row, the invariants do not speak of the transactions, and `exec_inv` does the rest. -/
theorem everyStepKeepsTheInvariant : Obligations.EveryStepKeepsTheInvariant := by
  intro s t hs h
  obtain ⟨i, rest, hexec⟩ := step_next_exec h
  have hpopped : ({ s with input := rest } : State).Inv := hs
  exact exec_inv hpopped hexec

/-! ### Each operation of a feed respects agreement on the live bytes (R24, R51) -/

namespace State.sameLive

variable {s t : State}

theorem state_eq (h : s.sameLive t) : t.state = s.state := by
  obtain ⟨hst, -⟩ := h
  exact hst

theorem cursor_eq (h : s.sameLive t) : t.cursor = s.cursor := by
  obtain ⟨-, hcur, -⟩ := h
  exact hcur

theorem unescaping_eq (h : s.sameLive t) : t.unescaping = s.unescaping := by
  obtain ⟨-, -, hu, -⟩ := h
  exact hu

theorem cfg_eq (h : s.sameLive t) : t.cfg = s.cfg := by
  obtain ⟨-, -, -, hcfg, -⟩ := h
  exact hcfg

theorem agreeBelow (h : s.sameLive t) : s.agreeBelow t s.cursor := by
  obtain ⟨-, -, -, hcfg, -, hread⟩ := h
  exact ⟨hcfg, hread⟩

theorem respond (h : s.sameLive t) (r : Result) : (s.respond r).sameLive (t.respond r) := h

theorem note (h : s.sameLive t) (e : Event) : (s.note e).sameLive (t.note e) := h

theorem setUnescaping (h : s.sameLive t) : s.setUnescaping.sameLive t.setUnescaping := by
  obtain ⟨hst, hcur, -, hcfg, hin, hread⟩ := h
  exact ⟨hst, hcur, rfl, hcfg, hin, hread⟩

theorem clearUnescaping (h : s.sameLive t) : s.clearUnescaping.sameLive t.clearUnescaping := by
  obtain ⟨hst, hcur, -, hcfg, hin, hread⟩ := h
  exact ⟨hst, hcur, rfl, hcfg, hin, hread⟩

theorem startBody (h : s.sameLive t) : s.startBody.sameLive t.startBody := by
  obtain ⟨-, hrest⟩ := h
  exact ⟨rfl, hrest⟩

theorem startHeader (h : s.sameLive t) : s.startHeader.sameLive t.startHeader := by
  obtain ⟨-, -, hu, hcfg, hin, -⟩ := h
  exact ⟨rfl, rfl, hu, hcfg, hin, nofun⟩

theorem resync (h : s.sameLive t) : s.resync.sameLive t.resync := by
  obtain ⟨-, -, hu, hcfg, hin, -⟩ := h
  exact ⟨rfl, rfl, hu, hcfg, hin, nofun⟩

/-- The byte stored at `cursor` becomes live as `cursor` moves past it. -/
theorem store_advance (h : s.sameLive t) (d : Byte) :
    (s.storeAtCursor d).advance.sameLive (t.storeAtCursor d).advance := by
  obtain ⟨hst, hcur, hu, hcfg, hin, hread⟩ := h
  refine ⟨hst, congrArg (· + 1) hcur, hu, hcfg, hin, fun a ha => ?_⟩
  have hle : a < s.cursor + 1 := ha
  simp only [State.advance_buf, State.storeAtCursor_buf, Memory.read_write, hcur]
  split
  · rfl
  · exact hread a (by omega)

theorem storeAtCursor (h : s.sameLive t) (d : Byte) : (s.storeAtCursor d).sameLive (t.storeAtCursor d) := by
  obtain ⟨-, -, -, -, -, hread⟩ := h.store_advance d
  obtain ⟨hst, hcur, hu, hcfg, hin, -⟩ := h
  exact ⟨hst, hcur, hu, hcfg, hin, fun a ha => hread a (Nat.lt_succ_of_lt ha)⟩

/-- The slide moves live bytes only: the buffer is full. -/
theorem slide (h : s.sameLive t) (hfull : s.cursor = s.cfg.cap) : s.slide.sameLive t.slide := by
  obtain ⟨hst, -, hu, hcfg, hin, hread⟩ := h
  have hcap := s.cfg.cap_eq
  have hwindow : t.buf.readN (s.cfg.cap - 4) 4 = s.buf.readN (s.cfg.cap - 4) 4 :=
    Memory.readN_congr fun x _ hx => hread x (by omega)
  refine ⟨hst, rfl, hu, hcfg, hin, fun a ha => ?_⟩
  have h4 : a < 4 := ha
  simp [Memory.read_writeN, hcfg, hwindow, h4]

end State.sameLive

/-! ### A feed reads live bytes only -/

/-- `s` and `t` agree on the live bytes, and hold the same result and trace name. -/
def State.sameAnswer (s t : State) : Prop := s.sameLive t ∧ t.result = s.result ∧ t.event = s.event

theorem State.sameLive.answered {s t : State} (h : s.sameLive t) (e : Event) (r : Result) :
    ((s.note e).respond r).sameAnswer ((t.note e).respond r) := ⟨(h.note e).respond r, rfl, rfl⟩

theorem seekStep_sameLive (d : Byte) {s t : State} (h : s.sameLive t) : (seekStep d s).sameAnswer (seekStep d t) := by
  have hlive := h.store_advance d
  unfold seekStep
  generalize (s.storeAtCursor d).advance = s₁ at hlive ⊢
  generalize (t.storeAtCursor d).advance = t₁ at hlive ⊢
  have hmatch : (4 ≤ t₁.cursor ∧ preambleMatch t₁ = true) ↔ (4 ≤ s₁.cursor ∧ preambleMatch s₁ = true) := by
    rw [hlive.cursor_eq]
    exact and_congr_right fun h4 => by rw [hlive.agreeBelow.preambleMatch_eq hlive.cursor_eq h4 le_rfl]
  simp only [hmatch]
  split
  · exact hlive.startHeader.answered _ _
  · rw [hlive.cursor_eq, hlive.cfg_eq]
    split
    · rename_i hfull
      exact (hlive.slide hfull).answered _ _
    · exact hlive.answered _ _

/-- `UNESC` completes a logical byte in both receivers or in neither. -/
theorem unescape_sameLive (d : Byte) {s t : State} (h : s.sameLive t) :
    ∃ s₁ t₁ completed, unescape d s = (s₁, completed) ∧ unescape d t = (t₁, completed) ∧ s₁.sameLive t₁ ∧
      s.cursor ≤ s₁.cursor := by
  unfold unescape
  rw [h.unescaping_eq]
  split
  · exact ⟨_, _, _, rfl, rfl, (h.store_advance d).clearUnescaping, Nat.le_succ _⟩
  · split
    · exact ⟨_, _, _, rfl, rfl, (h.storeAtCursor d).setUnescaping, le_rfl⟩
    · exact ⟨_, _, _, rfl, rfl, h.store_advance d, Nat.le_succ _⟩

/-- The header completion check reads the five header bytes. -/
theorem headerDone_sameLive {s t : State} (h : s.sameLive t) (h5 : s.cursor = 5) (r : Result) :
    ((headerDone s).respond r).sameAnswer ((headerDone t).respond r) := by
  unfold headerDone
  rw [h.agreeBelow.headerChecksumOk_eq (by omega), h.agreeBelow.headerLengthOk_eq (by omega)]
  split
  · split
    · exact h.startBody.answered _ r
    · exact h.resync.answered _ r
  · exact h.resync.answered _ r

theorem headerStep_sameLive (d : Byte) {s t : State} (h : s.sameLive t) :
    (headerStep d s).sameAnswer (headerStep d t) := by
  obtain ⟨s₁, t₁, completed, hs₁, ht₁, hlive, -⟩ := unescape_sameLive d h
  unfold headerStep
  rw [hs₁, ht₁]
  cases completed with
  | false => exact hlive.answered _ _
  | true =>
    dsimp only
    rw [hlive.cursor_eq]
    split
    · rename_i h5
      exact headerDone_sameLive hlive h5 _
    · exact hlive.answered _ _

/-- A completed body: flags, length, payload and both checksums are of bytes below `cursor`. -/
theorem bodyDone_sameLive {s t : State} (h : s.sameLive t) (hend : s.cursor = 5 + s.rxLength + 4) :
    (bodyDone s).sameAnswer (bodyDone t) := by
  have hagree := h.agreeBelow
  unfold bodyDone
  rw [hagree.bodyCheck_eq (by omega), hagree.rxFlags_eq (by omega), hagree.rxPayload_eq (by omega), h.cfg_eq]
  exact h.resync.answered _ _

theorem bodyStep_sameLive (d : Byte) {s t : State} (h : s.sameLive t) (hlow : 5 ≤ s.cursor) :
    (bodyStep d s).sameAnswer (bodyStep d t) := by
  obtain ⟨s₁, t₁, completed, hs₁, ht₁, hlive, hle⟩ := unescape_sameLive d h
  unfold bodyStep
  rw [hs₁, ht₁]
  cases completed with
  | false => exact hlive.answered _ _
  | true =>
    dsimp only
    rw [hlive.cursor_eq, hlive.agreeBelow.rxLength_eq (by omega)]
    split
    · rename_i hend
      exact bodyDone_sameLive hlive hend
    · exact hlive.answered _ _

/-- One feed cannot tell two receivers that agree on the live bytes apart. -/
theorem feedStep_sameLive (d : Byte) {s t : State} (hs : s.Inv) (h : s.sameLive t) :
    (feedStep d s).sameAnswer (feedStep d t) := by
  cases hst : s.state with
  | seekingPreamble =>
    rw [feedStep_seeking hst, feedStep_seeking (h.state_eq.trans hst)]
    exact seekStep_sameLive d h
  | readingHeader =>
    rw [feedStep_header hst, feedStep_header (h.state_eq.trans hst)]
    exact headerStep_sameLive d h
  | readingBody =>
    obtain ⟨-, -, -, -, hbody, -⟩ := hs
    obtain ⟨-, -, hlow, -⟩ := hbody hst
    rw [feedStep_body hst, feedStep_body (h.state_eq.trans hst)]
    exact bodyStep_sameLive d h hlow

/-- Nor can any sequence of feeds: both receivers accept it and give the same frames. -/
theorem feedSeq_sameLive (ds : List Byte) {s t : State} (hs : s.Inv) (h : s.sameLive t) :
    ∃ u v frames, feedSeq ds s = .next (u, frames) ∧ feedSeq ds t = .next (v, frames) ∧ u.sameLive v := by
  induction ds generalizing s t with
  | nil => exact ⟨s, t, [], rfl, rfl, h⟩
  | cons d ds ih =>
    obtain ⟨hlive, hresult, -⟩ := feedStep_sameLive d hs h
    obtain ⟨u, v, frames, hu, hv, huv⟩ := ih (feedStep_inv d hs) hlive
    have hbound : t.cursor < t.cfg.cap := by
      rw [h.cursor_eq, h.cfg_eq]
      exact hs.cursor_lt_cap
    exact ⟨u, v, frameOf (feedStep d s).result ++ frames,
      feedSeq_cons_next_iff.mpr ⟨_, _, feedByte_of_inv d hs, hu, rfl⟩,
      feedSeq_cons_next_iff.mpr ⟨_, _, feedByte_of_lt hbound, hv, by rw [hresult]⟩, huv⟩

theorem framesOf_of_feedSeq {ds : List Byte} {s u : State} {frames : List Frame}
    (h : feedSeq ds s = .next (u, frames)) : framesOf ds s = some frames := by
  simp [framesOf, h]

/-- Receivers that agree on the live bytes yield the same frames for every byte sequence. -/
theorem framesOf_sameLive (ds : List Byte) {s t : State} (hs : s.Inv) (h : s.sameLive t) :
    ∃ frames, framesOf ds s = some frames ∧ framesOf ds t = some frames := by
  obtain ⟨u, v, frames, hu, hv, -⟩ := feedSeq_sameLive ds hs h
  exact ⟨frames, framesOf_of_feedSeq hu, framesOf_of_feedSeq hv⟩

/-- Settles O30: after reset `cursor` is 0, so that no byte of the buffer is live. -/
theorem resetValuesAndUnspecifiedBuffer : Obligations.ResetValuesAndUnspecifiedBuffer := by
  refine ⟨fun _ _ => ⟨rfl, rfl⟩, fun c => ⟨rfl, rfl, rfl, rfl, rfl, fun m bytes => ?_⟩⟩
  have hlive : (State.resetWith c).sameLive { State.resetWith c with buf := m } :=
    ⟨rfl, rfl, rfl, rfl, rfl, nofun⟩
  exact framesOf_sameLive bytes (State.inv_resetWith c) hlive

end Sys2Proof.Machine
end

section
/-! PROOF. The statements of 20_memory.md: byte order (R45, R46), the feeds the host queues (R52) and stale buffer bytes (R51).
The facts about one feed that R51 needs are those of R24, above; here they are carried to every row. -/

namespace Sys2Proof

/-- Appending a byte scales by 256 and adds: the arithmetic form of both byte orders. -/
theorem toNat_append_byte {n : Nat} (x : BitVec n) (b : Byte) : (x ++ b).toNat = 2 ^ 8 * x.toNat + b.toNat := by
  rw [BitVec.toNat_append, ← Nat.shiftLeft_add_eq_or_of_lt b.isLt, Nat.shiftLeft_eq, Nat.mul_comm]

theorem toNat_halfOf (b1 b0 : Byte) : (halfOf b1 b0).toNat = 256 * b1.toNat + b0.toNat :=
  toNat_append_byte b1 b0

theorem toNat_wordOf (b3 b2 b1 b0 : Byte) :
    (wordOf b3 b2 b1 b0).toNat = 2 ^ 24 * b3.toNat + 2 ^ 16 * b2.toNat + 2 ^ 8 * b1.toNat + b0.toNat := by
  simp only [wordOf, toNat_append_byte]
  omega

end Sys2Proof

namespace Sys2Proof.Machine

/-! ### Byte order -/

/-- Unpacking what was packed gives the value back. -/
theorem unpack16_of_pack16 {e : Endian} {v : Half} {b0 b1 : Byte} (h : pack16 e v = [b0, b1]) :
    unpack16 e b0 b1 = v := by
  cases e <;>
  · obtain ⟨rfl, rfl⟩ : _ ∧ _ := by simpa [pack16] using h
    exact halfOf_extract v

theorem unpack32_of_pack32 {e : Endian} {v : Word} {b0 b1 b2 b3 : Byte} (h : pack32 e v = [b0, b1, b2, b3]) :
    unpack32 e b0 b1 b2 b3 = v := by
  cases e <;>
  · obtain ⟨rfl, rfl, rfl, rfl⟩ : _ ∧ _ ∧ _ ∧ _ := by simpa [pack32] using h
    exact wordOf_extract v

/-- Settles O45: each order is `halfOf` of the two bytes, which weighs the first one 256. -/
theorem halfWordByteOrder : Obligations.HalfWordByteOrder := by
  refine ⟨fun _ => ⟨rfl, rfl⟩, fun b0 b1 => ⟨?_, ?_⟩, fun _ _ _ _ => unpack16_of_pack16, fun _ _ => rfl,
    by decide, by decide⟩
  · exact (toNat_halfOf b1 b0).trans (Nat.add_comm _ _)
  · exact toNat_halfOf b0 b1

/-- Settles O46: each order is `wordOf` of the four bytes, from the top or from the bottom. -/
theorem wordByteOrder : Obligations.WordByteOrder := by
  refine ⟨fun _ => ⟨rfl, rfl⟩, fun b0 b1 b2 b3 => ⟨?_, toNat_wordOf b0 b1 b2 b3⟩,
    fun _ _ _ _ _ _ => unpack32_of_pack32, fun _ _ => rfl, by decide, by decide, by decide⟩
  have h : (unpack32 .little b0 b1 b2 b3).toNat = _ := toNat_wordOf b3 b2 b1 b0
  omega

/-! ### A feed hands the pending transactions through -/

/-- `s` with `q` as the host's pending transactions. -/
abbrev State.queued (s : State) (q : List Transaction) : State := { s with input := q }

theorem unescape_queued (d : Byte) (s : State) (q : List Transaction) :
    unescape d (s.queued q) = ((unescape d s).1.queued q, (unescape d s).2) := by
  have hcond : (s.queued q).unescaping = s.unescaping := rfl
  unfold unescape
  rw [hcond]
  split
  · rfl
  · split <;> rfl

theorem headerDone_queued (s : State) (q : List Transaction) : headerDone (s.queued q) = (headerDone s).queued q := by
  have hck : headerChecksumOk (s.queued q) = headerChecksumOk s := rfl
  have hlen : headerLengthOk (s.queued q) = headerLengthOk s := rfl
  unfold headerDone
  rw [hck, hlen]
  split
  · split <;> rfl
  · rfl

theorem seekStep_queued (d : Byte) (s : State) (q : List Transaction) :
    seekStep d (s.queued q) = (seekStep d s).queued q := by
  unfold seekStep
  rw [apply_ite (State.queued · q), apply_ite (State.queued · q)]
  rfl

theorem headerStep_queued (d : Byte) (s : State) (q : List Transaction) :
    headerStep d (s.queued q) = (headerStep d s).queued q := by
  unfold headerStep
  rw [unescape_queued]
  obtain ⟨t, completed⟩ := unescape d s
  cases completed with
  | false => rfl
  | true =>
    dsimp only
    rw [headerDone_queued, apply_ite (State.queued · q)]
    rfl

theorem bodyStep_queued (d : Byte) (s : State) (q : List Transaction) :
    bodyStep d (s.queued q) = (bodyStep d s).queued q := by
  unfold bodyStep
  rw [unescape_queued]
  obtain ⟨t, completed⟩ := unescape d s
  cases completed with
  | false => rfl
  | true =>
    dsimp only
    rw [apply_ite (State.queued · q)]
    rfl

theorem feedStep_queued (d : Byte) (s : State) (q : List Transaction) :
    feedStep d (s.queued q) = (feedStep d s).queued q := by
  cases hst : s.state with
  | seekingPreamble =>
    rw [feedStep_seeking hst, feedStep_seeking (s := s.queued q) hst]
    exact seekStep_queued d s q
  | readingHeader =>
    rw [feedStep_header hst, feedStep_header (s := s.queued q) hst]
    exact headerStep_queued d s q
  | readingBody =>
    rw [feedStep_body hst, feedStep_body (s := s.queued q) hst]
    exact bodyStep_queued d s q

theorem feedByte_queued {d : Byte} {s t : State} (h : feedByte d s = .next t) (q : List Transaction) :
    feedByte d (s.queued q) = .next (t.queued q) := by
  obtain ⟨hlt, rfl⟩ := feedByte_next_iff.mp h
  exact feedByte_next_iff.mpr ⟨hlt, feedStep_queued d s q⟩

/-! ### Queued feeds -/

/-- The transactions that ask for the feeds of `ds`, in order. -/
abbrev feedRequests (ds : List Byte) : List Transaction := ds.map (fun d => encode (.feed d))

/-- A step takes the first transaction and runs its row, whatever waits behind it. -/
theorem step_queued {x : Transaction} {i : Instr} (h : decode x = .ok i) (s : State) (q : List Transaction) :
    step (s.queued (x :: q)) = exec i (s.queued q) := by
  simp [step, h]

theorem decode_encode_feed (d : Byte) : decode (encode (.feed d)) = .ok (.feed d) := rfl

theorem run_succ_of_step {M : Host.Core} {s t : M.State} (h : M.step s = .next t) (k : Nat) :
    M.run (k + 1) s = M.run k t := by
  simp [Host.Core.run, h]

/-- Settles O44, by induction on the bytes: a step serves the first feed and leaves the rest queued at the next state. -/
theorem queuedFeedsAreServedInOrder : Obligations.QueuedFeedsAreServedInOrder := by
  intro s u bytes
  induction bytes generalizing s with
  | nil =>
    intro frames hin h
    obtain ⟨rfl, -⟩ : s = u ∧ [] = frames := by simpa using h
    exact congrArg Host.Outcome.next (congrArg s.queued hin.symm)
  | cons d ds ih =>
    intro frames hin h
    obtain ⟨t, more, hfeed, hrest, -⟩ := feedSeq_cons_next_iff.mp h
    obtain ⟨-, rfl⟩ := feedByte_next_iff.mp hfeed
    obtain ⟨-, hinput⟩ := feedStep_same d s
    have hserved : Sys2Proof.core.step (s.queued (feedRequests (d :: ds))) =
        .next ((feedStep d s).queued (feedRequests ds)) :=
      (step_queued (decode_encode_feed d) s _).trans (feedByte_queued hfeed _)
    exact (run_succ_of_step hserved ds.length).trans (ih _ more (hinput.trans hin) hrest)

/-! ### Rows that are raw bytes: the stage and the flag admit them, and then they feed -/

theorem feedSeq_singleton_next_iff {d : Byte} {s t : State} :
    (∃ frames, feedSeq [d] s = .next (t, frames)) ↔ feedByte d s = .next t := by
  constructor
  · rintro ⟨frames, h⟩
    obtain ⟨v, more, hfeed, hrest, -⟩ := feedSeq_cons_next_iff.mp h
    obtain ⟨rfl, -⟩ : v = t ∧ [] = more := by simpa using hrest
    exact hfeed
  · exact fun h => ⟨_, feedSeq_singleton h⟩

/-- A row is one or more feeds, made where the stage and the flag admit it. -/
def admittedFeeds (i : Instr) : Prop :=
  ∃ (admits : Stage → Bool → Prop) (ds : List Byte) (d : Byte), ∀ s t,
    exec i s = .next t ↔ admits s.state s.unescaping ∧ ∃ frames, feedSeq (ds ++ [d]) s = .next (t, frames)

theorem admittedFeeds_of_byte {i : Instr} (admits : Stage → Bool → Prop) (d : Byte)
    (h : ∀ s t, exec i s = .next t ↔ admits s.state s.unescaping ∧ feedByte d s = .next t) : admittedFeeds i :=
  ⟨admits, [], d, fun s t => (h s t).trans (and_congr_right fun _ => feedSeq_singleton_next_iff.symm)⟩

/-- A window is its four bytes, begun in the seeking stage. -/
theorem admittedFeeds_of_window {i : Instr} (p : Word)
    (h : ∀ s t, exec i s = .next t ↔ s.state = .seekingPreamble ∧ feedSymbol (wordBytes p) s = .next t) :
    admittedFeeds i :=
  ⟨fun st _ => st = .seekingPreamble, [p.extractLsb' 24 8, p.extractLsb' 16 8, p.extractLsb' 8 8], p.extractLsb' 0 8,
    fun s t => (h s t).trans (and_congr_right fun _ => feedSymbol_next_iff)⟩

theorem admittedFeeds_of_receive {i : Instr} (hi : isReceiveRow i = true) : admittedFeeds i := by
  cases i with
  | feed d => exact admittedFeeds_of_byte (fun _ _ => True) d fun s t => by simp
  | raw d => exact admittedFeeds_of_byte (fun st _ => st = .seekingPreamble) d fun _ _ => exec_raw_next_iff
  | escaped d =>
    exact admittedFeeds_of_byte (fun st u => st ≠ .seekingPreamble ∧ u = true) d fun _ _ => exec_escaped_next_iff
  | escmark =>
    exact admittedFeeds_of_byte (fun st u => st ≠ .seekingPreamble ∧ u = false) _ fun _ _ => exec_escmark_next_iff
  | literal d =>
    exact admittedFeeds_of_byte (fun st u => st ≠ .seekingPreamble ∧ u = false ∧ d ≠ Config.esc) d
      fun _ _ => exec_literal_next_iff
  | preamble p => exact admittedFeeds_of_window p fun _ _ => exec_preamble_next_iff
  | preambleRecLittle =>
    exact admittedFeeds_of_window recLittleImage fun _ _ => exec_preamble_next_iff (p := recLittleImage)
  | preambleRecBig => exact admittedFeeds_of_window recBigImage fun _ _ => exec_preamble_next_iff (p := recBigImage)
  | _ => cases hi

/-- The last of some feeds sets the result and the trace name, the same in two receivers that agree on the live bytes. -/
theorem feedSeq_concat_sameAnswer (ds : List Byte) (d : Byte) {s t : State} (hs : s.Inv) (h : s.sameLive t) :
    ∃ u v frames, feedSeq (ds ++ [d]) s = .next (u, frames) ∧ feedSeq (ds ++ [d]) t = .next (v, frames) ∧
      u.sameAnswer v := by
  obtain ⟨u, v, frames, hu, hv, hlive⟩ := feedSeq_sameLive ds hs h
  have huInv : u.Inv := feedSeq_inv hs hu
  obtain ⟨hlast, hresult, hevent⟩ := feedStep_sameLive d huInv hlive
  have hvBound : v.cursor < v.cfg.cap := by
    rw [hlive.cursor_eq, hlive.cfg_eq]
    exact huInv.cursor_lt_cap
  exact ⟨_, _, _, feedSeq_append_next_iff.mpr ⟨u, _, _, hu, feedSeq_singleton (feedByte_of_inv d huInv), rfl⟩,
    feedSeq_append_next_iff.mpr ⟨v, _, _, hv, feedSeq_singleton (feedByte_of_lt hvBound), by rw [hresult]⟩,
    hlast, hresult, hevent⟩

/-- A receive row answers alike in receivers that agree on the live bytes. -/
theorem exec_receive_sameAnswer {i : Instr} {s t s' : State} (hi : isReceiveRow i = true) (hs : s.Inv)
    (h : s.sameLive t) (hexec : exec i s = .next s') : ∃ t', exec i t = .next t' ∧ s'.sameAnswer t' := by
  obtain ⟨admits, ds, d, hrow⟩ := admittedFeeds_of_receive hi
  obtain ⟨hadmits, frames, hfeeds⟩ := (hrow s s').mp hexec
  obtain ⟨u, v, more, hu, hv, hanswer⟩ := feedSeq_concat_sameAnswer ds d hs h
  obtain ⟨rfl, -⟩ : u = s' ∧ more = frames := by simpa [hu] using hfeeds
  refine ⟨v, (hrow t v).mpr ⟨?_, more, hv⟩, hanswer⟩
  rwa [h.state_eq, h.unescaping_eq]

/-! ### The other rows: the answer is a matter of the configuration -/

/-- Where the outcome `o` of `s` is a next state, it is `s` with a result, and `o'` is `t` with the same result. -/
def answersAlike (s t : State) (o o' : Host.Outcome State Fault Refusal) : Prop :=
  ∀ s', o = .next s' → ∃ r, s' = s.respond r ∧ o' = .next (t.respond r)

theorem answersAlike_next (s t : State) (r : Result) : answersAlike s t (.next (s.respond r)) (.next (t.respond r)) := by
  rintro s' ⟨⟩
  exact ⟨r, rfl, rfl⟩

theorem answersAlike_refused (s t : State) (x : Refusal) (o : Host.Outcome State Fault Refusal) :
    answersAlike s t (.refused x) o := nofun

theorem answersAlike_ite {s t : State} {p : Prop} [Decidable p] {a b a' b' : Host.Outcome State Fault Refusal}
    (ha : answersAlike s t a a') (hb : answersAlike s t b b') :
    answersAlike s t (if p then a else b) (if p then a' else b') := by
  split
  · exact ha
  · exact hb

/-- A row that is no raw byte reads the configuration alone. -/
theorem exec_answersAlike {i : Instr} {s t : State} (hi : isReceiveRow i = false) (hcfg : t.cfg = s.cfg) :
    answersAlike s t (exec i s) (exec i t) := by
  obtain ⟨_, _, _, _, cfg, _, _, _⟩ := s
  obtain ⟨_, _, _, _, cfg', _, _, _⟩ := t
  obtain rfl : cfg' = cfg := hcfg
  cases i with
  | feed | raw | preamble | preambleRecLittle | preambleRecBig | escaped | escmark | literal => cases hi
  | nop | encode | hck | crcUpd | crc32 | escEnc | escape | txEscMarker | txEscEsc | fieldFlags | fieldHck
    | fieldPayloadByte | fieldCrc32 | resNone | stOk => exact answersAlike_next _ _ _
  | txPlain => exact answersAlike_ite (answersAlike_refused _ _ _ _) (answersAlike_next _ _ _)
  | fieldPreamble | fieldLength | resFrameValid | resFrameDamaged | stLengthExceeded =>
    exact answersAlike_ite (answersAlike_next _ _ _) (answersAlike_refused _ _ _ _)
  | reservedOp | resReserved => exact answersAlike_refused _ _ _ _

/-- Settles O41: a receive row feeds, and feeds read live bytes only; any other row reads the configuration and leaves the
trace name as it was. -/
theorem staleBufferBytesNeverMatter : Obligations.StaleBufferBytesNeverMatter := by
  intro i s t s' hs h hexec
  cases hi : isReceiveRow i with
  | true =>
    obtain ⟨t', ht', hlive, hresult, hevent⟩ := exec_receive_sameAnswer hi hs h hexec
    exact ⟨t', ht', hlive, hresult, fun _ => hevent⟩
  | false =>
    obtain ⟨r, rfl, ht⟩ := exec_answersAlike hi h.cfg_eq s' hexec
    exact ⟨_, ht, h.respond r, rfl, fun hname => hname.resolve_left Bool.false_ne_true⟩

end Sys2Proof.Machine
end

section
/-! PROOF. The statements of 30_encoding.md on the transactions (R73 to R75, R78): decoder and encoder are inverse on the
well-formed rows, the codes of the table, and what a step does with what it decodes. -/

namespace Sys2Proof

/-! ### Decode after encode -/

/-- A window that is none of the recommended images is a `PREAMBLE` row. -/
theorem decodeSeeking_wordBytes {p : Word} (hlittle : p ≠ recLittleImage) (hbig : p ≠ recBigImage) :
    decodeSeeking (wordBytes p) = .ok (.preamble p) := by
  simp [decodeSeeking, wordBytes, wordOf_extract, hlittle, hbig]

theorem decodeReading_of_ne_esc {d : Byte} (hd : d ≠ Config.esc) : decodeReading [d] = .ok (.literal d) :=
  if_neg hd

theorem decodeTx_of_not_reserved {b : Byte} (hmarker : b ≠ Config.marker) (hesc : b ≠ Config.esc) :
    decodeTx [b] = .ok (.txPlain b) :=
  if_neg (not_or.mpr ⟨hmarker, hesc⟩)

theorem decodeField16_halfBytes (mk : Half → Instr) (v : Half) : decodeField16 mk (halfBytes v) = .ok (mk v) := by
  simp [decodeField16, halfBytes, halfOf_extract]

theorem decodeField32_wordBytes (mk : Word → Instr) (v : Word) : decodeField32 mk (wordBytes v) = .ok (mk v) := by
  simp [decodeField32, wordBytes, wordOf_extract]

/-- A payload length that fits 16 bits is read back from its two bytes. -/
theorem decodeFrame_frameBytes (mk : Half → List Byte → Instr) (flags : Half) {payload : List Byte}
    (h : payload.length < 65536) :
    decodeFrame mk (halfBytes flags ++ halfBytes (BitVec.ofNat 16 payload.length) ++ payload) = .ok (mk flags payload) := by
  simp [decodeFrame, halfBytes, halfOf_extract, Nat.mod_eq_of_lt h]

theorem decodeRequest_encode (flags : Half) (payload : List Byte) :
    decodeRequest (encodeBytes (.encode flags payload)) = .ok (.encode flags payload) := by
  simp [decodeRequest, encodeBytes, halfBytes, halfOf_extract]

theorem decodeRequest_crcUpd (crc : Word) (c : Byte) :
    decodeRequest (encodeBytes (.crcUpd crc c)) = .ok (.crcUpd crc c) := by
  simp [decodeRequest, encodeBytes, wordBytes, wordOf_extract]

/-- The eight reserved codes are 8 to 15 (R75 item 8). -/
theorem decodeRequest_reservedOp (r : BitVec 3) : decodeRequest [0b00001#5 ++ r] = .ok (.reservedOp r) := by
  revert r
  decide

/-- Settles O1: a row whose operands are bytes decodes by computation; a word operand is put together again from its bytes;
the rows with a narrower range fall in their branch of the decoder because they are well formed. -/
theorem decodeOfEncodeIsTheInstruction : Obligations.DecodeOfEncodeIsTheInstruction := by
  intro i hwf
  cases i with
  | nop | feed | hck | crc32 | escEnc | escape | raw | preambleRecLittle | preambleRecBig | escaped | escmark | txEscMarker
    | txEscEsc | fieldHck | fieldPayloadByte | resNone | resReserved | stOk => rfl
  | encode flags payload => exact decodeRequest_encode flags payload
  | crcUpd crc c => exact decodeRequest_crcUpd crc c
  | reservedOp r => exact decodeRequest_reservedOp r
  | preamble p =>
    obtain ⟨hlittle, hbig⟩ : p ≠ recLittleImage ∧ p ≠ recBigImage := by simpa [Instr.wellFormed] using hwf
    exact decodeSeeking_wordBytes hlittle hbig
  | literal d => exact decodeReading_of_ne_esc (by simpa [Instr.wellFormed] using hwf)
  | txPlain b =>
    obtain ⟨hmarker, hesc⟩ : b ≠ Config.marker ∧ b ≠ Config.esc := by simpa [Instr.wellFormed] using hwf
    exact decodeTx_of_not_reserved hmarker hesc
  | fieldPreamble | fieldCrc32 | stLengthExceeded => exact decodeField32_wordBytes _ _
  | fieldFlags | fieldLength => exact decodeField16_halfBytes _ _
  | resFrameValid | resFrameDamaged => exact decodeFrame_frameBytes _ _ (of_decide_eq_true hwf)

/-! ### Encode after decode, one lemma per code space -/

/-- `i` is a well-formed row of the code space `c`, and `bytes` are its bytes. -/
def Instr.isRowOf (i : Instr) (c : Channel) (bytes : List Byte) : Prop :=
  i.channel = c ∧ encodeBytes i = bytes ∧ i.wellFormed = true

theorem byte_eq_of_toNat_eq {b : Byte} {n : Nat} (h : b.toNat = n) : b = BitVec.ofNat 8 n := by
  simp [← h]

/-- A request code from 8 to 15 is that of the reserved row its low three bits name. -/
theorem reservedOp_isRowOf {code : Byte} (hlow : ¬code.toNat < 8) (hhigh : ¬16 ≤ code.toNat) :
    (Instr.reservedOp (BitVec.ofNat 3 (code.toNat - 8))).isRowOf .request [code] := by
  have hcode : ∀ c : Byte, ¬c.toNat < 8 → ¬16 ≤ c.toNat → 0b00001#5 ++ BitVec.ofNat 3 (c.toNat - 8) = c := by decide
  exact ⟨rfl, congrArg (fun c => [c]) (hcode code hlow hhigh), rfl⟩

theorem isRowOf_of_decodeRequest {bytes : List Byte} {i : Instr} (h : decodeRequest bytes = .ok i) :
    i.isRowOf .request bytes := by
  unfold decodeRequest at h
  split at h
  · cases h
  · split at h
    case h_1 hk | h_2 hk | h_3 hk | h_4 hk | h_5 hk | h_6 hk | h_7 hk | h_8 hk =>
      obtain rfl := byte_eq_of_toNat_eq hk
      cases h
      exact ⟨rfl, by simp [encodeBytes], rfl⟩
    case h_9 =>
      split_ifs at h with hlow hhigh hempty
      obtain rfl := List.isEmpty_iff.mp hempty
      cases h
      exact reservedOp_isRowOf hlow hhigh

theorem isRowOf_of_decodeSeeking {bytes : List Byte} {i : Instr} (h : decodeSeeking bytes = .ok i) :
    i.isRowOf .rxSeeking bytes := by
  unfold decodeSeeking at h
  split at h
  · cases h
    exact ⟨rfl, rfl, rfl⟩
  · rename_i b3 b2 b1 b0
    have hbytes := wordBytes_wordOf b3 b2 b1 b0
    simp only at h
    split_ifs at h with hlittle hbig
    · cases h
      exact ⟨rfl, (congrArg wordBytes hlittle).symm.trans hbytes, rfl⟩
    · cases h
      exact ⟨rfl, (congrArg wordBytes hbig).symm.trans hbytes, rfl⟩
    · cases h
      exact ⟨rfl, hbytes, by simp [Instr.wellFormed, hlittle, hbig]⟩
  · cases h

theorem isRowOf_of_decodePending {bytes : List Byte} {i : Instr} (h : decodePending bytes = .ok i) :
    i.isRowOf .rxPending bytes := by
  unfold decodePending at h
  split at h
  · cases h
    exact ⟨rfl, rfl, rfl⟩
  · cases h

theorem isRowOf_of_decodeReading {bytes : List Byte} {i : Instr} (h : decodeReading bytes = .ok i) :
    i.isRowOf .rxReading bytes := by
  unfold decodeReading at h
  split at h
  · split_ifs at h with hesc
    · cases h
      exact ⟨rfl, hesc ▸ rfl, rfl⟩
    · cases h
      exact ⟨rfl, rfl, by simp [Instr.wellFormed, hesc]⟩
  · cases h

theorem isRowOf_of_decodeTx {bytes : List Byte} {i : Instr} (h : decodeTx bytes = .ok i) :
    i.isRowOf .txSymbol bytes := by
  unfold decodeTx at h
  split at h
  · split_ifs at h with hreserved
    cases h
    exact ⟨rfl, rfl, by simpa [Instr.wellFormed] using hreserved⟩
  · split_ifs at h with hmarker hesc
    · obtain ⟨rfl, rfl⟩ := hmarker
      cases h
      exact ⟨rfl, rfl, rfl⟩
    · obtain ⟨rfl, rfl⟩ := hesc
      cases h
      exact ⟨rfl, rfl, rfl⟩
  · cases h

/-- A field is decoded from its four bytes alone; the same below for two bytes and for one. -/
theorem eq_of_decodeField32 {mk : Word → Instr} {bytes : List Byte} {i : Instr} (h : decodeField32 mk bytes = .ok i) :
    ∃ v, i = mk v ∧ bytes = wordBytes v := by
  unfold decodeField32 at h
  split at h
  · cases h
    exact ⟨_, rfl, (wordBytes_wordOf _ _ _ _).symm⟩
  · cases h

theorem eq_of_decodeField16 {mk : Half → Instr} {bytes : List Byte} {i : Instr} (h : decodeField16 mk bytes = .ok i) :
    ∃ v, i = mk v ∧ bytes = halfBytes v := by
  unfold decodeField16 at h
  split at h
  · cases h
    exact ⟨_, rfl, (halfBytes_halfOf _ _).symm⟩
  · cases h

theorem eq_of_decodeField8 {mk : Byte → Instr} {bytes : List Byte} {i : Instr} (h : decodeField8 mk bytes = .ok i) :
    ∃ v, i = mk v ∧ bytes = [v] := by
  unfold decodeField8 at h
  split at h
  · cases h
    exact ⟨_, rfl, rfl⟩
  · cases h

/-- A frame result is decoded only where the length field is the number of payload bytes, which then fits 16 bits. -/
theorem eq_of_decodeFrame {mk : Half → List Byte → Instr} {bytes : List Byte} {i : Instr}
    (h : decodeFrame mk bytes = .ok i) :
    ∃ flags payload, i = mk flags payload ∧ payload.length < 65536 ∧
      bytes = halfBytes flags ++ halfBytes (BitVec.ofNat 16 payload.length) ++ payload := by
  unfold decodeFrame at h
  split at h
  · rename_i f1 f0 n1 n0 payload
    split_ifs at h with hlength
    cases h
    refine ⟨_, _, rfl, hlength ▸ (halfOf n1 n0).isLt, ?_⟩
    rw [← hlength, BitVec.ofNat_toNat, BitVec.setWidth_eq]
    simp
  · cases h

theorem isRowOf_of_decodeResult {bytes : List Byte} {i : Instr} (h : decodeResult bytes = .ok i) :
    i.isRowOf .feedResult bytes := by
  unfold decodeResult at h
  split at h
  · cases h
  · split at h
    case h_1 hk | h_4 hk =>
      obtain rfl := byte_eq_of_toNat_eq hk
      split_ifs at h with hempty
      obtain rfl := List.isEmpty_iff.mp hempty
      cases h
      exact ⟨rfl, rfl, rfl⟩
    case h_2 hk | h_3 hk =>
      obtain rfl := byte_eq_of_toNat_eq hk
      obtain ⟨flags, payload, rfl, hlength, rfl⟩ := eq_of_decodeFrame h
      exact ⟨rfl, rfl, decide_eq_true hlength⟩
    case h_5 => cases h

theorem isRowOf_of_decodeStatus {bytes : List Byte} {i : Instr} (h : decodeStatus bytes = .ok i) :
    i.isRowOf .encodeStatus bytes := by
  unfold decodeStatus at h
  split at h
  · cases h
  · split at h
    case h_1 hk =>
      obtain rfl := byte_eq_of_toNat_eq hk
      cases h
      exact ⟨rfl, rfl, rfl⟩
    case h_2 hk =>
      obtain rfl := byte_eq_of_toNat_eq hk
      obtain ⟨length, rfl, rfl⟩ := eq_of_decodeField32 h
      exact ⟨rfl, rfl, rfl⟩
    case h_3 => cases h

/-- What is decoded in a code space is a row of that space. -/
theorem isRowOf_of_decode {c : Channel} {bytes : List Byte} {i : Instr}
    (h : decode { channel := c, bytes := bytes } = .ok i) : i.isRowOf c bytes := by
  cases c with
  | request => exact isRowOf_of_decodeRequest h
  | rxSeeking => exact isRowOf_of_decodeSeeking h
  | rxPending => exact isRowOf_of_decodePending h
  | rxReading => exact isRowOf_of_decodeReading h
  | txSymbol => exact isRowOf_of_decodeTx h
  | fieldPreamble | fieldCrc =>
    obtain ⟨v, rfl, rfl⟩ := eq_of_decodeField32 h
    exact ⟨rfl, rfl, rfl⟩
  | fieldFlags | fieldLength =>
    obtain ⟨v, rfl, rfl⟩ := eq_of_decodeField16 h
    exact ⟨rfl, rfl, rfl⟩
  | fieldHck | fieldPayload =>
    obtain ⟨v, rfl, rfl⟩ := eq_of_decodeField8 h
    exact ⟨rfl, rfl, rfl⟩
  | feedResult => exact isRowOf_of_decodeResult h
  | encodeStatus => exact isRowOf_of_decodeStatus h

/-- Settles O2, code space by code space. -/
theorem encodeOfDecodeIsTheTransaction : Obligations.EncodeOfDecodeIsTheTransaction := by
  rintro ⟨c, bytes⟩ i h
  obtain ⟨hchannel, hbytes, hwf⟩ := isRowOf_of_decode h
  exact ⟨congrArg₂ Transaction.mk hchannel hbytes, hwf⟩

/-! ### The codes of the table -/

/-- The first byte of a request is its operation code with four zero bits above it (R73). -/
theorem head?_encodeBytes_of_opCode {i : Instr} {op : BitVec 4} (h : opCode i = some op) :
    (encodeBytes i).head? = some (0#4 ++ op) := by
  cases i with
  | nop | feed | encode | hck | crcUpd | crc32 | escEnc | escape =>
    cases h
    rfl
  | reservedOp r =>
    cases h
    revert r
    decide
  | _ => cases h

/-- Settles O3: the codes by `head?_encodeBytes_of_opCode`, each listed word by running the decoder on it. -/
theorem tableWordsDecode : Obligations.TableWordsDecode :=
  ⟨fun _ _ => head?_encodeBytes_of_opCode, rfl, fun _ => rfl, rfl, rfl, rfl, fun _ => rfl, fun _ => rfl, fun _ => rfl, rfl,
    rfl, fun _ => rfl, rfl, rfl, rfl, rfl, rfl, rfl, rfl, fun _ => rfl, fun _ => rfl, rfl, rfl, rfl, rfl⟩

end Sys2Proof

namespace Sys2Proof.Machine

/-! ### What a step does with the host's first transaction -/

theorem step_of_decode_ok {s : State} {t : Transaction} {rest : List Transaction} {i : Instr}
    (hinput : s.input = t :: rest) (h : decode t = .ok i) : step s = exec i { s with input := rest } := by
  simp [step, hinput, h]

theorem step_of_decode_error {s : State} {t : Transaction} {rest : List Transaction} {e : DecodeError}
    (hinput : s.input = t :: rest) (h : decode t = .error e) : step s = .refused (.undecodable e) := by
  simp [step, hinput, h]

theorem step_of_no_input {s : State} (hinput : s.input = []) : step s = exec .nop s := by
  simp [step, hinput]

/-- Settles O4: the three cases of `step`. -/
theorem stepRunsTheDecodedInstruction : Obligations.StepRunsTheDecodedInstruction :=
  ⟨fun _ _ _ _ => step_of_decode_ok, fun _ => step_of_no_input, fun _ _ _ _ => step_of_decode_error⟩

/-- Settles O5: the reserved codes have rows of their own, and those rows are refused. -/
theorem reservedCodesAreRefused : Obligations.ReservedCodesAreRefused :=
  ⟨decodeRequest_reservedOp, fun _ _ => rfl, rfl, fun _ => rfl⟩

/-- Settles O6: `NOP` answers on the result port alone. -/
theorem nopLeavesTheBlockUnchanged : Obligations.NopLeavesTheBlockUnchanged :=
  ⟨rfl, exec_nop⟩

end Sys2Proof.Machine
end

section
/-! PROOF. The statements of 30_encoding.md on what a raw byte, or a window of four, is to the receiver (R69, R70): the
receive symbols and the preamble rows. -/

namespace Sys2Proof.Machine

/-! ### Each receive row feeds where the byte is its symbol, and is refused elsewhere -/

theorem exec_raw (d : Byte) (s : State) :
    exec (.raw d) s = if s.state = .seekingPreamble then feedByte d s else .refused .notThisSymbol := rfl

theorem exec_escaped (d : Byte) (s : State) :
    exec (.escaped d) s =
      if s.state ≠ .seekingPreamble ∧ s.unescaping = true then feedByte d s else .refused .notThisSymbol := by
  simp only [← s.reading_iff]
  rfl

theorem exec_escmark (s : State) :
    exec .escmark s =
      if s.state ≠ .seekingPreamble ∧ s.unescaping = false then feedByte Config.esc s else .refused .notThisSymbol := by
  simp only [← s.reading_iff]
  rfl

theorem exec_literal (d : Byte) (s : State) :
    exec (.literal d) s =
      if s.state ≠ .seekingPreamble ∧ s.unescaping = false ∧ d ≠ Config.esc then feedByte d s
      else .refused .notThisSymbol := by
  simp only [← s.reading_iff]
  rfl

theorem exec_preamble (p : Word) (s : State) :
    exec (.preamble p) s =
      if s.state = .seekingPreamble then feedSymbol (wordBytes p) s else .refused .notThisSymbol := rfl

/-- The rows of the two recommended images are the `PREAMBLE` row with their image (R61). -/
theorem exec_preambleRecLittle (s : State) : exec .preambleRecLittle s = exec (.preamble recLittleImage) s := rfl

theorem exec_preambleRecBig (s : State) : exec .preambleRecBig s = exec (.preamble recBigImage) s := rfl

/-- Settles O25: each symbol's row is the feed under exactly the condition that makes the byte that symbol. -/
theorem feedIsTheSymbolOfTheByte : Obligations.FeedIsTheSymbolOfTheByte := by
  intro s d
  have hraw (h : s.state = .seekingPreamble) : exec (.feed d) s = exec (.raw d) s :=
    (if_pos h).symm
  have hescaped (h : s.state ≠ .seekingPreamble) (hu : s.unescaping = true) :
      exec (.feed d) s = exec (.escaped d) s := by
    rw [exec_feed, exec_escaped, if_pos ⟨h, hu⟩]
  have hescmark (h : s.state ≠ .seekingPreamble) (hu : s.unescaping = false) (hd : d = Config.esc) :
      exec (.feed d) s = exec .escmark s := by
    rw [exec_feed, exec_escmark, if_pos ⟨h, hu⟩, hd]
  have hliteral (h : s.state ≠ .seekingPreamble) (hu : s.unescaping = false) (hd : d ≠ Config.esc) :
      exec (.feed d) s = exec (.literal d) s := by
    rw [exec_feed, exec_literal, if_pos ⟨h, hu, hd⟩]
  refine ⟨hraw, hescaped, hescmark, hliteral, ?_⟩
  by_cases h : s.state = .seekingPreamble
  · simpa [symbolOf, h] using hraw h
  · cases hu : s.unescaping with
    | true => simpa [symbolOf, h, hu] using hescaped h hu
    | false =>
      by_cases hd : d = Config.esc
      · simpa [symbolOf, h, hu, hd] using hescmark h hu hd
      · simpa [symbolOf, h, hu, hd] using hliteral h hu hd

/-! ### What one feed of a symbol leaves -/

theorem State.storedOnly_of_buf {s t : State} {a : Nat} {d : Byte} (h : t.buf = s.buf.write a d) : s.storedOnly t a d := by
  refine ⟨?_, fun x hx => ?_⟩
  · rw [h, Memory.read_write_same]
  · rw [h, Memory.read_write_other _ _ hx]

theorem feedStep_sameOutside (d : Byte) (s : State) : s.sameOutside (feedStep d s) := feedStep_same d s

theorem feedByte_seeking {d : Byte} {s : State} (hst : s.state = .seekingPreamble) (hcap : s.cursor < s.cfg.cap) :
    feedByte d s = .next (seekStep d s) := by
  rw [feedByte_of_lt hcap, feedStep_seeking hst]

/-- A feed in the seeking stage returns nothing and leaves the flag. -/
theorem seekStep_answer (d : Byte) (s : State) :
    (seekStep d s).result = .feed none ∧ (seekStep d s).unescaping = s.unescaping := by
  rcases seekStep_cases d s with ⟨-, -, h⟩ | ⟨-, -, h⟩ | ⟨-, -, h⟩ <;> simp [h]

/-- A feed in the seeking stage stores its byte at `cursor`; another byte changes only where the buffer slides, and then
among the first four. -/
theorem seekStep_read (d : Byte) (s : State) :
    (seekStep d s).buf.read s.cursor = d ∧
    ∀ x, x ≠ s.cursor → 4 ≤ x ∨ s.cursor + 1 ≠ s.cfg.cap → (seekStep d s).buf.read x = s.buf.read x := by
  have hwrite : ∀ x, x ≠ s.cursor → (s.buf.write s.cursor d).read x = s.buf.read x :=
    fun x hx => Memory.read_write_other s.buf d hx
  rcases seekStep_cases d s with ⟨-, -, h⟩ | ⟨-, hfull, h⟩ | ⟨-, -, h⟩
  · rw [h]
    exact ⟨Memory.read_write_same .., fun x hx _ => hwrite x hx⟩
  · have hslide : ∀ x, 4 ≤ x → (seekStep d s).buf.read x = (s.buf.write s.cursor d).read x := by
      intro x hx
      rw [h, Memory.read_writeN, if_neg (by simp; omega)]
    refine ⟨?_, fun x hx hor => ?_⟩
    · have hlast : 4 ≤ s.cursor := by rw [Cfg.cap_eq] at hfull; omega
      rw [hslide _ hlast, Memory.read_write_same]
    · rw [hslide x (hor.resolve_right (not_not_intro hfull)), hwrite x hx]
  · rw [h]
    exact ⟨Memory.read_write_same .., fun x hx _ => hwrite x hx⟩

/-- An unescaped `ESC` in a reading stage is a marker. -/
theorem feedStep_marker {s : State} (hst : s.state ≠ .seekingPreamble) (hu : s.unescaping = false) :
    feedStep Config.esc s = s.marked Config.esc := by
  cases hstage : s.state with
  | seekingPreamble => exact absurd hstage hst
  | readingHeader =>
    rw [feedStep_header hstage]
    rcases headerStep_cases Config.esc s with ⟨-, -, h⟩ | ⟨hn, -⟩ | ⟨hn, -⟩
    · exact h
    · exact absurd ⟨hu, rfl⟩ hn
    · exact absurd ⟨hu, rfl⟩ hn
  | readingBody =>
    rw [feedStep_body hstage]
    rcases bodyStep_cases Config.esc s with ⟨-, -, h⟩ | ⟨hn, -⟩ | ⟨hn, -⟩
    · exact h
    · exact absurd ⟨hu, rfl⟩ hn
    · exact absurd ⟨hu, rfl⟩ hn

theorem headerDone_cursor (s : State) : (headerDone s).cursor = s.cursor ∨ (headerDone s).cursor = 0 := by
  rcases headerDone_cases s with ⟨-, -, h⟩ | ⟨-, -, h⟩ | ⟨-, h⟩ <;> simp [h]

/-- Any other byte in a reading stage is stored and the flag is 0; it is counted, unless it completes a stage and the
receiver goes back to an empty window. -/
theorem feedStep_logical {d : Byte} {s : State} (hst : s.state ≠ .seekingPreamble)
    (hd : ¬(s.unescaping = false ∧ d = Config.esc)) :
    (feedStep d s).unescaping = false ∧ (feedStep d s).buf = s.buf.write s.cursor d ∧
    ((feedStep d s).cursor = s.cursor + 1 ∨ (feedStep d s).cursor = 0) := by
  cases hstage : s.state with
  | seekingPreamble => exact absurd hstage hst
  | readingHeader =>
    rw [feedStep_header hstage]
    rcases headerStep_cases d s with ⟨hu, hesc, -⟩ | ⟨-, -, h⟩ | ⟨-, -, h⟩
    · exact absurd ⟨hu, hesc⟩ hd
    · simp [h]
    · obtain ⟨-, -, hbuf, hu⟩ := headerDone_same (s.counted d)
      simpa [h, hbuf, hu] using headerDone_cursor (s.counted d)
  | readingBody =>
    rw [feedStep_body hstage]
    rcases bodyStep_cases d s with ⟨hu, hesc, -⟩ | ⟨-, -, h⟩ | ⟨-, -, h⟩
    · exact absurd ⟨hu, hesc⟩ hd
    · simp [h]
    · simp [h]

/-- `ESCAPED` and `LITERAL` are the same feed of a logical byte: the next state either row answers. -/
theorem feedByte_logical {d : Byte} {s : State} (hst : s.state ≠ .seekingPreamble) (hcap : s.cursor < s.cfg.cap)
    (hd : ¬(s.unescaping = false ∧ d = Config.esc)) :
    ∃ t, feedByte d s = .next t ∧ s.sameOutside t ∧ t.unescaping = false ∧ s.storedOnly t s.cursor d ∧
      (t.cursor = s.cursor + 1 ∨ t.cursor = 0) := by
  obtain ⟨hu, hbuf, hcursor⟩ := feedStep_logical hst hd
  exact ⟨_, feedByte_of_lt hcap, feedStep_sameOutside d s, hu, State.storedOnly_of_buf hbuf, hcursor⟩

/-- Settles O26: where the row is admitted it is one feed, which `seekStep_read`, `feedStep_marker` and `feedStep_logical`
describe; elsewhere its condition fails. -/
theorem receiveSymbolsComplete : Obligations.ReceiveSymbolsComplete := by
  refine ⟨?raw, ?escaped, ?escmark, ?literal, ?notRaw, ?notEscaped, ?notEscmark, ?notLiteral⟩
  case raw =>
    intro s d hst hcap
    obtain ⟨hresult, hu⟩ := seekStep_answer d s
    obtain ⟨hstored, hother⟩ := seekStep_read d s
    refine ⟨seekStep d s, ?_, feedStep_seeking hst ▸ feedStep_sameOutside d s, hu, hresult, hstored, hother⟩
    rw [exec_raw, if_pos hst, feedByte_seeking hst hcap]
  case escaped =>
    intro s d hst hcap hu
    rw [exec_escaped, if_pos ⟨hst, hu⟩]
    exact feedByte_logical hst hcap (by simp [hu])
  case escmark =>
    intro s hst hcap hu
    rw [exec_escmark, if_pos ⟨hst, hu⟩, feedByte_of_lt hcap, feedStep_marker hst hu]
    exact ⟨_, rfl, ⟨rfl, rfl⟩, rfl, State.storedOnly_of_buf rfl, rfl, rfl, rfl⟩
  case literal =>
    intro s d hst hcap hu hd
    rw [exec_literal, if_pos ⟨hst, hu, hd⟩]
    exact feedByte_logical hst hcap fun h => hd h.2
  case notRaw => exact fun s d hst => if_neg hst
  case notEscaped =>
    intro s d h
    rw [exec_escaped, if_neg]
    rintro ⟨hst, hu⟩
    simp [hst, hu] at h
  case notEscmark =>
    intro s h
    rw [exec_escmark, if_neg]
    rintro ⟨hst, hu⟩
    simp [hst, hu] at h
  case notLiteral =>
    intro s d h
    rw [exec_literal, if_neg]
    rintro ⟨hst, hu, hd⟩
    simp only [hst, hu, Bool.false_eq_true, false_or] at h
    exact hd h

/-! ### A window of four bytes, begun with an empty buffer -/

/-- `MemRead` after `MemWrite` at the same place gives the bytes written. -/
theorem Memory.readN_writeN (m : Memory) (a : Nat) (bytes : List Byte) :
    (m.writeN a bytes).readN a bytes.length = bytes := by
  apply List.ext_getElem (by simp)
  intro i _ hi
  rw [Memory.getElem_readN, Memory.read_writeN, if_pos ⟨by omega, by omega⟩, Nat.add_sub_cancel_left,
    List.getD_eq_getElem _ _ hi]

/-- With fewer than three bytes stored, a feed in the seeking stage stores one more: no window to match yet, and
`CAP` is at least nine. -/
theorem seekStep_of_cursor_lt_three {d : Byte} {s : State} (h : s.cursor < 3) :
    seekStep d s = { s with
      buf := s.buf.write s.cursor d, cursor := s.cursor + 1, event := some .evStore, result := .feed none } := by
  rcases seekStep_cases d s with ⟨h3, -⟩ | ⟨-, hfull, -⟩ | ⟨-, -, hstore⟩
  · omega
  · rw [Cfg.cap_eq] at hfull
    omega
  · exact hstore

/-- The fourth byte completes the window: the header stage begins exactly when it reads as `PREAMBLE`. -/
theorem seekStep_of_cursor_eq_three {d : Byte} {s : State} (hst : s.state = .seekingPreamble) (h : s.cursor = 3) :
    (seekStep d s).buf = s.buf.write 3 d ∧
    ((s.stored d).rd32 0 = s.cfg.preamble → (seekStep d s).state = .readingHeader ∧ (seekStep d s).cursor = 0) ∧
    ((s.stored d).rd32 0 ≠ s.cfg.preamble → (seekStep d s).state = .seekingPreamble ∧ (seekStep d s).cursor = 4) := by
  have hmatch : preambleMatch (s.stored d) = true ↔ (s.stored d).rd32 0 = s.cfg.preamble := by
    simp [preambleMatch, h]
  rcases seekStep_cases d s with ⟨-, hm, hstep⟩ | ⟨-, hfull, -⟩ | ⟨hm, -, hstep⟩
  · simp [hstep, hmatch.mp hm, h]
  · rw [Cfg.cap_eq] at hfull
    omega
  · have hne : (s.stored d).rd32 0 ≠ s.cfg.preamble := fun he => hm ⟨h.ge, hmatch.mpr he⟩
    simp [hstep, hne, h, hst]

/-- The bytes before a window is full are stored one after the other. -/
theorem feedSeq_before_window (ds : List Byte) {s : State} (hst : s.state = .seekingPreamble)
    (hroom : s.cursor + ds.length ≤ 3) :
    ∃ t, feedSeq ds s = .next (t, []) ∧ t.state = .seekingPreamble ∧ t.cursor = s.cursor + ds.length ∧
      t.buf = s.buf.writeN s.cursor ds ∧ t.unescaping = s.unescaping ∧ s.sameOutside t := by
  induction ds generalizing s with
  | nil => exact ⟨s, rfl, hst, rfl, rfl, rfl, rfl, rfl⟩
  | cons d ds ih =>
    rw [List.length_cons] at hroom
    have hfeed : feedByte d s = .next (seekStep d s) := feedByte_seeking hst (by rw [Cfg.cap_eq]; omega)
    have hstep := seekStep_of_cursor_lt_three (d := d) (s := s) (by omega)
    obtain ⟨t, hseq, hstage, hcursor, hbuf, hu, houtside⟩ := ih (s := seekStep d s) (by rw [hstep]; exact hst)
      (by rw [hstep]; show s.cursor + 1 + ds.length ≤ 3; omega)
    rw [hstep] at hcursor hbuf hu houtside
    refine ⟨t, feedSeq_cons_next_iff.mpr ⟨_, [], hfeed, hseq, ?_⟩, hstage, ?_, hbuf, hu, houtside⟩
    · rw [(seekStep_answer d s).1]
      rfl
    · rw [hcursor, List.length_cons]
      show s.cursor + 1 + ds.length = s.cursor + (ds.length + 1)
      omega

theorem State.rd32_of_readN {s : State} {a : Nat} {p : Word} (h : s.buf.readN a 4 = wordBytes p) :
    s.rd32 a = ofImage32 s.cfg.endian p := by
  obtain ⟨h0, h1, h2, h3⟩ : _ ∧ _ ∧ _ ∧ _ := by simpa [Memory.readN_four, wordBytes] using h
  simp only [State.rd32, ofImage32, h0, h1, h2, h3]

/-- Four bytes fed to an empty window: they are stored at 0 to 3, and the header stage begins exactly when they read as
`PREAMBLE` (R123). -/
theorem feedSymbol_empty_window (p : Word) {s : State} (hst : s.state = .seekingPreamble) (hcursor : s.cursor = 0) :
    ∃ t, feedSymbol (wordBytes p) s = .next t ∧ s.sameOutside t ∧ t.unescaping = s.unescaping ∧ t.result = .feed none ∧
      t.buf.readN 0 4 = wordBytes p ∧ (∀ x, 4 ≤ x → t.buf.read x = s.buf.read x) ∧
      (ofImage32 s.cfg.endian p = s.cfg.preamble → t.state = .readingHeader ∧ t.cursor = 0) ∧
      (ofImage32 s.cfg.endian p ≠ s.cfg.preamble → t.state = .seekingPreamble ∧ t.cursor = 4) := by
  obtain ⟨v, hthree, hvst, hvcursor, hvbuf, hvu, hvcfg, hvinput⟩ :=
    feedSeq_before_window [p.extractLsb' 24 8, p.extractLsb' 16 8, p.extractLsb' 8 8] hst (by simp [hcursor])
  replace hvcursor : v.cursor = 3 := by simpa [hcursor] using hvcursor
  have hstored : v.buf.write 3 (p.extractLsb' 0 8) = s.buf.writeN 0 (wordBytes p) := by
    rw [hvbuf, hcursor]
    rfl
  have hfour : (s.buf.writeN 0 (wordBytes p)).readN 0 4 = wordBytes p := Memory.readN_writeN s.buf 0 (wordBytes p)
  have hwindow : (v.stored (p.extractLsb' 0 8)).rd32 0 = ofImage32 s.cfg.endian p := by
    rw [← hvcfg]
    refine State.rd32_of_readN ?_
    show (v.buf.write v.cursor _).readN 0 4 = _
    rw [hvcursor, hstored, hfour]
  obtain ⟨hbuf, hmatch, hmiss⟩ := seekStep_of_cursor_eq_three (d := p.extractLsb' 0 8) hvst hvcursor
  rw [hwindow, hvcfg] at hmatch hmiss
  obtain ⟨hresult, hu⟩ := seekStep_answer (p.extractLsb' 0 8) v
  obtain ⟨hcfg, hinput⟩ := feedStep_seeking hvst ▸ feedStep_same (p.extractLsb' 0 8) v
  have hlast : feedByte (p.extractLsb' 0 8) v = .next (seekStep (p.extractLsb' 0 8) v) :=
    feedByte_seeking hvst (by rw [Cfg.cap_eq]; omega)
  refine ⟨seekStep (p.extractLsb' 0 8) v, feedSymbol_next_iff.mpr ⟨_, feedSeq_append_next_iff.mpr
    ⟨v, [], _, hthree, feedSeq_singleton hlast, rfl⟩⟩, ⟨hcfg.trans hvcfg, hinput.trans hvinput⟩, hu.trans hvu, hresult,
    ?_, fun x hx => ?_, hmatch, hmiss⟩
  · rw [hbuf, hstored, hfour]
  · rw [hbuf, hstored, Memory.read_writeN, if_neg (by simp; omega)]

/-- Settles O28: the row is its four feeds. -/
theorem preambleRowsFromAnEmptyWindow : Obligations.PreambleRowsFromAnEmptyWindow := by
  refine ⟨fun s p hst hcursor => ?_, fun s _ => exec_preambleRecLittle s, fun s _ => exec_preambleRecBig s⟩
  rw [exec_preamble, if_pos hst]
  exact feedSymbol_empty_window p hst hcursor

/-! ### A window begun anywhere in the seeking stage -/

/-- The next `n` feeds complete no header: the receiver seeks, or reads a header that lacks more than `n` bytes. -/
def State.headerOpenFor (s : State) (n : Nat) : Prop :=
  s.state = .seekingPreamble ∨ s.state = .readingHeader ∧ s.cursor + n ≤ 4

/-- A feed that completes no header returns nothing and leaves one feed fewer to go. -/
theorem feedStep_headerOpenFor (d : Byte) {s : State} {n : Nat} (hn : n ≤ 4) (h : s.headerOpenFor (n + 1)) :
    (feedStep d s).result = .feed none ∧ (feedStep d s).headerOpenFor n := by
  rcases h with hst | ⟨hst, hroom⟩
  · rw [feedStep_seeking hst]
    refine ⟨(seekStep_answer d s).1, ?_⟩
    rcases seekStep_cases d s with ⟨-, -, h⟩ | ⟨-, -, h⟩ | ⟨-, -, h⟩
    · exact .inr ⟨by rw [h], by rw [h]; simpa using hn⟩
    · exact .inl (by rw [h]; exact hst)
    · exact .inl (by rw [h]; exact hst)
  · rw [feedStep_header hst]
    rcases headerStep_cases d s with ⟨-, -, h⟩ | ⟨-, -, h⟩ | ⟨-, hfull, -⟩
    · exact ⟨by rw [h], .inr ⟨by rw [h]; exact hst, by rw [h]; show s.cursor + n ≤ 4; omega⟩⟩
    · exact ⟨by rw [h], .inr ⟨by rw [h]; exact hst, by rw [h]; show s.cursor + 1 + n ≤ 4; omega⟩⟩
    · omega

/-- At most four bytes return no frame: a header that begins within them is still open after them. -/
theorem feedSeq_headerOpenFor (ds : List Byte) {s : State} (hs : s.Inv) (hlen : ds.length ≤ 4)
    (h : s.headerOpenFor ds.length) : ∃ t, feedSeq ds s = .next (t, []) := by
  induction ds generalizing s with
  | nil => exact ⟨s, rfl⟩
  | cons d ds ih =>
    have hlen' : ds.length ≤ 4 := Nat.le_of_succ_le hlen
    obtain ⟨hresult, hopen⟩ := feedStep_headerOpenFor d hlen' h
    obtain ⟨t, ht⟩ := ih (feedStep_inv d hs) hlen' hopen
    exact ⟨t, feedSeq_cons_next_iff.mpr ⟨_, [], feedByte_of_inv d hs, ht, by rw [hresult]; rfl⟩⟩

theorem exec_preamble_of_inv (p : Word) {s : State} (hs : s.Inv) (hst : s.state = .seekingPreamble) :
    ∃ t, exec (.preamble p) s = .next t ∧ feedSeq (wordBytes p) s = .next (t, []) := by
  obtain ⟨t, ht⟩ := feedSeq_headerOpenFor (wordBytes p) hs (by simp) (.inl hst)
  exact ⟨t, exec_preamble_next_iff.mpr ⟨hst, feedSymbol_next_iff.mpr ⟨[], ht⟩⟩, ht⟩

/-- Settles O29: a row of four bytes is four feeds, too few to complete a header, let alone a frame. -/
theorem preambleRowsAreFourFeeds : Obligations.PreambleRowsAreFourFeeds :=
  ⟨fun _ p hs hst => exec_preamble_of_inv p hs hst, fun _ hs hst => exec_preamble_of_inv recLittleImage hs hst,
    fun _ hs hst => exec_preamble_of_inv recBigImage hs hst, fun _ _ hst => ⟨if_neg hst, if_neg hst, if_neg hst⟩⟩

end Sys2Proof.Machine
end

section
/-! PROOF. The statements of 30_encoding.md on a frame (R60 to R67, R71): the content offset by offset, its length on the
wire, and the field rows. -/

namespace Sys2Proof.Machine

/-! ### Wire images -/

/-- A wire image is its value with the bytes in `ENDIAN` order. -/
theorem halfBytes_ofImage16 (e : Endian) (v : Half) : halfBytes (ofImage16 e v) = pack16 e v := by
  cases e
  · exact halfBytes_halfOf _ _
  · exact congrArg halfBytes (halfOf_extract v)

theorem wordBytes_ofImage32 (e : Endian) (v : Word) : wordBytes (ofImage32 e v) = pack32 e v := by
  cases e
  · exact wordBytes_wordOf _ _ _ _
  · exact congrArg wordBytes (wordOf_extract v)

theorem pack32_ofImage32 (e : Endian) (v : Word) : pack32 e (ofImage32 e v) = wordBytes v :=
  pack32_unpack32 e _ _ _ _

/-- The image of an image is the value (Safety.lean, `fieldsOf`). -/
theorem ofImage16_ofImage16 (e : Endian) (v : Half) : ofImage16 e (ofImage16 e v) = v :=
  unpack16_of_pack16 (halfBytes_ofImage16 e v).symm

theorem ofImage32_ofImage32 (e : Endian) (v : Word) : ofImage32 e (ofImage32 e v) = v :=
  unpack32_of_pack32 (wordBytes_ofImage32 e v).symm

/-! ### The content, offset by offset -/

theorem length_headerPack (e : Endian) (flags n : Half) : (headerPack e flags n).length = 5 := by
  simp [headerPack]

theorem length_frameContent (e : Endian) (flags : Half) (payload : List Byte) :
    (frameContent e flags payload).length = 9 + payload.length := by
  simp only [frameContent, List.length_append, length_headerPack, length_pack32]
  omega

theorem getElem?_frameContent_header (e : Endian) (flags : Half) (payload : List Byte) {i : Nat} (hi : i < 5) :
    (frameContent e flags payload)[i]? = (headerPack e flags (BitVec.ofNat 16 payload.length))[i]? := by
  have hheader := length_headerPack e flags (BitVec.ofNat 16 payload.length)
  rw [frameContent, List.append_assoc, List.getElem?_append_left (by omega)]

theorem getElem?_frameContent_payload (e : Endian) (flags : Half) (payload : List Byte) {i : Nat}
    (hi : i < payload.length) : (frameContent e flags payload)[5 + i]? = payload[i]? := by
  have hheader := length_headerPack e flags (BitVec.ofNat 16 payload.length)
  rw [frameContent, List.append_assoc, List.getElem?_append_right (by omega), hheader, Nat.add_sub_cancel_left,
    List.getElem?_append_left hi]

/-- The last four bytes are the CRC32 of the content before them (R66). -/
theorem getElem?_frameContent_crc (e : Endian) (flags : Half) (payload : List Byte) {i j : Nat}
    (hj : j = 5 + payload.length + i) :
    (frameContent e flags payload)[j]? =
      (pack32 e (frameChecksum ((frameContent e flags payload).take (5 + payload.length))))[i]? := by
  have hcovered : (headerPack e flags (BitVec.ofNat 16 payload.length) ++ payload).length = 5 + payload.length := by
    rw [List.length_append, length_headerPack]
  rw [frameContent, List.take_left' hcovered, List.getElem?_append_right (by omega), hcovered, hj,
    Nat.add_sub_cancel_left]

/-- Settles O49: each offset is one of the three parts of the content, and in each byte order the part's bytes compute. -/
theorem contentLayout : Obligations.ContentLayout := by
  intro flags n payload hn
  have hlength : BitVec.ofNat 16 payload.length = n := by simp [← hn]
  have header (e : Endian) {i : Nat} (hi : i < 5) :
      (frameContent e flags payload)[i]? = (headerPack e flags n)[i]? :=
    hlength ▸ getElem?_frameContent_header e flags payload hi
  have crc (e : Endian) := @getElem?_frameContent_crc e flags payload
  have hsum : flags.extractLsb' 8 8 ^^^ flags.extractLsb' 0 8 ^^^ n.extractLsb' 8 8 ^^^ n.extractLsb' 0 8 =
      flags.extractLsb' 0 8 ^^^ flags.extractLsb' 8 8 ^^^ n.extractLsb' 0 8 ^^^ n.extractLsb' 8 8 := by ac_rfl
  rw [hn]
  refine ⟨length_frameContent .., length_frameContent ..,
    header .little (i := 0) (by omega), header .big (i := 0) (by omega),
    header .little (i := 1) (by omega), header .big (i := 1) (by omega),
    header .little (i := 2) (by omega), header .big (i := 2) (by omega),
    header .little (i := 3) (by omega), header .big (i := 3) (by omega),
    header .little (i := 4) (by omega), (header .big (i := 4) (by omega)).trans (congrArg some hsum),
    fun i hi => ⟨getElem?_frameContent_payload _ _ _ hi, getElem?_frameContent_payload _ _ _ hi⟩,
    crc .little (i := 0) (by omega), crc .big (i := 0) (by omega),
    crc .little (i := 1) (by omega), crc .big (i := 1) (by omega),
    crc .little (i := 2) (by omega), crc .big (i := 2) (by omega),
    crc .little (i := 3) (by omega), crc .big (i := 3) (by omega)⟩

/-! ### The length on the wire -/

theorem length_escapeByte (b : Byte) : (escapeByte b).length = if reserved b then 2 else 1 := by
  unfold escapeByte
  split <;> rfl

/-- Escaping adds one byte for each reserved byte (R108). -/
theorem length_escapeBytes (s : List Byte) : (escapeBytes s).length = s.length + reservedCount s := by
  induction s with
  | nil => rfl
  | cons b s ih =>
    rw [escapeBytes_cons, List.length_append, ih, length_escapeByte, reservedCount, reservedCount, List.countP_cons,
      List.length_cons]
    split <;> omega

theorem length_frameWire (c : Cfg) (flags : Half) (payload : List Byte) :
    (frameWire c flags payload).length =
      4 + 9 + payload.length + reservedCount (frameContent c.endian flags payload) := by
  rw [frameWire, List.length_append, length_pack32, length_escapeBytes, length_frameContent]
  omega

theorem encodeFrame_eq_encoded_iff {c : Cfg} {flags : Half} {payload wire : List Byte} :
    encodeFrame c flags payload = .encoded wire ↔
      payload.length ≤ c.maxLen.toNat ∧ frameWire c flags payload = wire := by
  unfold encodeFrame
  split
  · simp; omega
  · simp; omega

/-- Settles O50: `length_frameWire`, with at most every content byte reserved. -/
theorem wireLength : Obligations.WireLength := by
  intro c flags payload wire h
  obtain ⟨-, rfl⟩ := encodeFrame_eq_encoded_iff.mp h
  have hlength := length_frameWire c flags payload
  have hreserved : reservedCount (frameContent c.endian flags payload) ≤ 9 + payload.length :=
    length_frameContent c.endian flags payload ▸ List.countP_le_length
  exact ⟨hlength, by omega, by omega⟩

/-! ### The field rows -/

theorem exec_fieldPreamble (p : Word) (s : State) :
    exec (.fieldPreamble p) s =
      if ofImage32 s.cfg.endian p = s.cfg.preamble then .next { s with result := .bytes (wordBytes p) }
      else .refused .operandOutOfRange := rfl

theorem exec_fieldFlags (f : Half) (s : State) :
    exec (.fieldFlags f) s = .next { s with result := .bytes (escapeBytes (halfBytes f)) } := rfl

theorem exec_fieldLength (n : Half) (s : State) :
    exec (.fieldLength n) s =
      if (ofImage16 s.cfg.endian n).toNat ≤ s.cfg.maxLen.toNat then
        .next { s with result := .bytes (escapeBytes (halfBytes n)) }
      else .refused .operandOutOfRange := rfl

theorem exec_fieldHck (h : Byte) (s : State) :
    exec (.fieldHck h) s = .next { s with result := .bytes (escapeByte h) } := rfl

theorem exec_fieldPayloadByte (y : Byte) (s : State) :
    exec (.fieldPayloadByte y) s = .next { s with result := .bytes (escapeByte y) } := rfl

theorem exec_fieldCrc32 (c : Word) (s : State) :
    exec (.fieldCrc32 c) s = .next { s with result := .bytes (escapeBytes (wordBytes c)) } := rfl

/-- Settles O51: the two rows with a range by their condition, the other four without one. -/
theorem fieldRowsComplete : Obligations.FieldRowsComplete :=
  ⟨fun s p hp => ⟨if_pos hp, hp ▸ pack32_ofImage32 s.cfg.endian p⟩, fun s f => exec_fieldFlags f s, fun _ _ hn => if_pos hn,
    fun s h => exec_fieldHck h s, fun s y => exec_fieldPayloadByte y s, fun s c => exec_fieldCrc32 c s,
    fun _ _ hp => if_neg hp, fun _ _ hn => if_neg (Nat.not_le_of_lt hn)⟩

/-! ### A frame is its fields in order -/

theorem escapeBytes_append (s t : List Byte) : escapeBytes (s ++ t) = escapeBytes s ++ escapeBytes t :=
  List.flatMap_append

theorem escapeBytes_singleton (b : Byte) : escapeBytes [b] = escapeByte b := by
  rw [escapeBytes_cons, escapeBytes_nil, List.append_nil]

@[simp] theorem deliveredBytes_bytes (s : State) (bytes : List Byte) :
    deliveredBytes (.next { s with result := .bytes bytes }) = bytes := rfl

/-- The payload fields deliver the escaped payload. -/
theorem deliveredBytes_payload (s : State) (payload : List Byte) :
    (payload.map Instr.fieldPayloadByte).flatMap (fun i => deliveredBytes (exec i s)) = escapeBytes payload := by
  simp [List.flatMap_map, exec_fieldPayloadByte, escapeBytes]

/-- The preamble field of a frame is in its row's range, and delivers the preamble as it is. -/
theorem exec_fieldPreamble_of_frame (s : State) :
    exec (.fieldPreamble (ofImage32 s.cfg.endian s.cfg.preamble)) s =
      .next { s with result := .bytes (pack32 s.cfg.endian s.cfg.preamble) } := by
  rw [exec_fieldPreamble, if_pos (ofImage32_ofImage32 _ _), wordBytes_ofImage32]

/-- The length field of a frame that is not too long is in its row's range. -/
theorem exec_fieldLength_of_frame {s : State} {n : Nat} (hn : n ≤ s.cfg.maxLen.toNat) :
    exec (.fieldLength (ofImage16 s.cfg.endian (BitVec.ofNat 16 n))) s =
      .next { s with result := .bytes (escapeBytes (pack16 s.cfg.endian (BitVec.ofNat 16 n))) } := by
  have hfits : (BitVec.ofNat 16 n).toNat = n := Nat.mod_eq_of_lt (hn.trans_lt s.cfg.maxLen.isLt)
  rw [exec_fieldLength, ofImage16_ofImage16, hfits, if_pos hn, halfBytes_ofImage16]

theorem exec_fieldsOf {s : State} {flags : Half} {payload : List Byte} (hlen : payload.length ≤ s.cfg.maxLen.toNat) :
    ∀ i ∈ fieldsOf s.cfg flags payload, ∃ t, exec i s = .next t := by
  intro i hi
  simp only [fieldsOf, List.mem_append, List.mem_cons, List.not_mem_nil, or_false, List.mem_map] at hi
  obtain ((rfl | rfl | rfl | rfl) | ⟨y, -, rfl⟩) | rfl := hi
  · exact ⟨_, exec_fieldPreamble_of_frame s⟩
  · exact ⟨_, exec_fieldFlags _ s⟩
  · exact ⟨_, exec_fieldLength_of_frame hlen⟩
  · exact ⟨_, exec_fieldHck _ s⟩
  · exact ⟨_, exec_fieldPayloadByte y s⟩
  · exact ⟨_, exec_fieldCrc32 _ s⟩

/-- What the fields deliver, in order, is the frame on the wire: escaping distributes over the parts of the content. -/
theorem flatMap_deliveredBytes_fieldsOf {s : State} {flags : Half} {payload : List Byte}
    (hlen : payload.length ≤ s.cfg.maxLen.toNat) :
    (fieldsOf s.cfg flags payload).flatMap (fun i => deliveredBytes (exec i s)) = frameWire s.cfg flags payload := by
  simp only [fieldsOf, List.flatMap_append, List.flatMap_cons, List.flatMap_nil, deliveredBytes_payload,
    exec_fieldPreamble_of_frame, exec_fieldFlags, exec_fieldLength_of_frame hlen, exec_fieldHck, exec_fieldCrc32,
    deliveredBytes_bytes, halfBytes_ofImage16, wordBytes_ofImage32]
  simp only [frameWire, frameContent, headerPack, escapeBytes_append, escapeBytes_singleton, List.append_assoc,
    List.append_nil]

/-- Settles O52 from the two facts about `fieldsOf`, as the payload is not too long for `ENCODE`. -/
theorem encodeIsItsFieldsInOrder : Obligations.EncodeIsItsFieldsInOrder := by
  intro s flags payload hlen
  refine ⟨exec_fieldsOf hlen, ?_⟩
  rw [exec_encode, flatMap_deliveredBytes_fieldsOf hlen, encodeFrame_eq_encoded_iff.mpr ⟨hlen, rfl⟩]

end Sys2Proof.Machine
end

section
/-! PROOF. The statements of 30_encoding.md on results (R74): the rows that carry the results of `FEED` and `ENCODE`. -/

namespace Sys2Proof.Machine

/-! ### The result and status rows -/

theorem exec_resFrameValid (flags : Half) (payload : List Byte) (s : State) :
    exec (.resFrameValid flags payload) s =
      if payload.length ≤ s.cfg.maxLen.toNat then
        .next { s with result := .feed (some { flags := flags, payload := payload, damaged := false }) }
      else .refused .operandOutOfRange := rfl

theorem exec_resFrameDamaged (flags : Half) (payload : List Byte) (s : State) :
    exec (.resFrameDamaged flags payload) s =
      if payload.length ≤ s.cfg.maxLen.toNat ∧ s.cfg.lenient = true then
        .next { s with result := .feed (some { flags := flags, payload := payload, damaged := true }) }
      else .refused .operandOutOfRange := rfl

theorem exec_stLengthExceeded (length : Word) (s : State) :
    exec (.stLengthExceeded length) s =
      if s.cfg.maxLen.toNat < length.toNat then .next { s with result := .lengthExceeded length.toNat }
      else .refused .operandOutOfRange := rfl

/-- Settles O54: each row's condition holds, or fails. -/
theorem resultRowsComplete : Obligations.ResultRowsComplete := by
  refine ⟨fun _ => rfl, fun _ _ _ h => if_pos h, fun _ _ _ h hlenient => if_pos ⟨h, hlenient⟩, fun _ _ => rfl,
    fun _ _ h => if_pos h, fun _ _ _ h => if_neg (Nat.not_le_of_lt h), fun s flags payload h => ?_,
    fun _ _ h => if_neg (Nat.not_lt_of_le h)⟩
  rw [exec_resFrameDamaged, if_neg]
  rintro ⟨hlength, hlenient⟩
  rcases h with hlong | hstrict
  · omega
  · simp [hlenient] at hstrict

/-! ### The frames a feed returns -/

/-- A frame the block may give: a payload of at most `MAXLEN` bytes (R155), damaged only from a lenient block (R136). -/
def Frame.allowed (f : Frame) (c : Cfg) : Prop :=
  f.payload.length ≤ c.maxLen.toNat ∧ (f.damaged = true → c.lenient = true)

theorem bodyResult_eq_some {ok lenient : Bool} {flags : Half} {payload : List Byte} {f : Frame}
    (h : bodyResult ok lenient flags payload = some f) : f.payload = payload ∧ (f.damaged = true → lenient = true) := by
  unfold bodyResult at h
  split_ifs at h with hok hlenient
  · cases h
    exact ⟨rfl, nofun⟩
  · cases h
    exact ⟨rfl, fun _ => hlenient⟩

theorem State.length_rxPayload (s : State) : s.rxPayload.length = s.rxLength := Memory.length_readN ..

/-- A feed returns only frames the block may give: only the body stage returns one, and there the declared length is at most
`MAXLEN` by the invariants. -/
theorem feedStep_frame_allowed {d : Byte} {s : State} {f : Frame} (hs : s.Inv)
    (h : (feedStep d s).result = .feed (some f)) : f.allowed s.cfg := by
  cases hst : s.state with
  | seekingPreamble =>
    rw [feedStep_seeking hst] at h
    rcases seekStep_cases d s with ⟨-, -, hstep⟩ | ⟨-, -, hstep⟩ | ⟨-, -, hstep⟩ <;> simp [hstep] at h
  | readingHeader =>
    rw [feedStep_header hst] at h
    rcases headerStep_cases d s with ⟨-, -, hstep⟩ | ⟨-, -, hstep⟩ | ⟨-, -, hstep⟩ <;> simp [hstep] at h
  | readingBody =>
    rw [feedStep_body hst] at h
    obtain ⟨-, -, -, -, hbody, -⟩ := hs
    obtain ⟨hlength, -, hcursor, -⟩ := hbody hst
    have hcounted : (s.counted d).rxLength = s.rxLength := (State.agreeBelow_counted s d).rxLength_eq (by omega)
    rcases bodyStep_cases d s with ⟨-, -, hstep⟩ | ⟨-, -, hstep⟩ | ⟨-, -, hstep⟩
    · simp [hstep] at h
    · simp [hstep] at h
    · obtain ⟨hpayload, hdamaged⟩ := bodyResult_eq_some (by simpa [hstep] using h)
      refine ⟨?_, hdamaged⟩
      rw [hpayload, State.length_rxPayload, hcounted]
      exact hlength

/-! ### Every result has its row -/

/-- The state that holds a result delivers it again and stays as it is. -/
theorem State.next_result_eq {s : State} {r : Result} (h : s.result = r) :
    (Host.Outcome.next { s with result := r } : Host.Outcome State Fault Refusal) = .next s := by
  subst h
  rfl

/-- The row that carries a result of `FEED`, with the code of R74. -/
theorem resultRow_feed {t : State} {r : Option Frame} (ht : t.result = .feed r) (hr : ∀ f ∈ r, f.allowed t.cfg) :
    ∃ i, resultRow (.feed r) = some i ∧ exec i t = .next t ∧ (encodeBytes i).head? = some (0#6 ++ resCode r) := by
  cases r with
  | none => exact ⟨.resNone, rfl, State.next_result_eq ht, rfl⟩
  | some f =>
    obtain ⟨hlength, hdamaged⟩ := hr f rfl
    obtain ⟨flags, payload, damaged⟩ := f
    cases damaged with
    | false =>
      refine ⟨.resFrameValid flags payload, rfl, ?_, by simp [encodeBytes, resCode]⟩
      rw [exec_resFrameValid, if_pos hlength]
      exact State.next_result_eq ht
    | true =>
      refine ⟨.resFrameDamaged flags payload, rfl, ?_, by simp [encodeBytes, resCode]⟩
      rw [exec_resFrameDamaged, if_pos ⟨hlength, hdamaged rfl⟩]
      exact State.next_result_eq ht

/-- The code 11 is never produced (R74). -/
theorem resCode_ne_reserved (r : Option Frame) : resCode r ≠ 0b11#2 := by
  cases r with
  | none => decide
  | some f =>
    cases hd : f.damaged with
    | false => simp [resCode, hd]
    | true => simp [resCode, hd]

/-- The row that carries a result of `ENCODE`; 32 bits hold the offending length. -/
theorem resultRow_encode {t : State} {flags : Half} {payload : List Byte} (h32 : payload.length < 2 ^ 32)
    (ht : t.result = encodeFrame t.cfg flags payload) :
    ∃ i st, resultRow t.result = some i ∧ exec i t = .next t ∧ stCode t.result = some st ∧
      (encodeBytes i).head? = some (0#7 ++ st) := by
  by_cases hlong : t.cfg.maxLen.toNat < payload.length
  · replace ht : t.result = .lengthExceeded payload.length := ht.trans (if_pos hlong)
    have hfits : (BitVec.ofNat 32 payload.length).toNat = payload.length := Nat.mod_eq_of_lt h32
    refine ⟨.stLengthExceeded (BitVec.ofNat 32 payload.length), 1#1, by rw [ht]; rfl, ?_, by rw [ht]; rfl, rfl⟩
    rw [exec_stLengthExceeded, hfits, if_pos hlong]
    exact State.next_result_eq ht
  · replace ht : t.result = .encoded (frameWire t.cfg flags payload) := ht.trans (if_neg hlong)
    exact ⟨.stOk _, 0#1, by rw [ht]; rfl, State.next_result_eq ht, by rw [ht]; rfl, rfl⟩

/-- Settles O55: a feed returns nothing or an allowed frame, `ENCODE` its bytes or the length that is too long, and each of the
four has its row. -/
theorem everyResultHasItsRow : Obligations.EveryResultHasItsRow := by
  refine ⟨fun s t d hs h => ?_, fun s t flags payload h32 h => ?_⟩
  · obtain ⟨-, rfl⟩ := feedByte_next_iff.mp h
    obtain ⟨r, hr⟩ := feedStep_result d s
    obtain ⟨hcfg, -⟩ := feedStep_same d s
    have hallowed : ∀ f ∈ r, f.allowed (feedStep d s).cfg := by
      rintro f rfl
      exact hcfg ▸ feedStep_frame_allowed hs hr
    obtain ⟨i, hrow, hexec, hhead⟩ := resultRow_feed hr hallowed
    exact ⟨r, i, hr, hr ▸ hrow, hexec, hhead, resCode_ne_reserved r⟩
  · rw [exec_encode] at h
    cases h
    exact resultRow_encode h32 rfl

end Sys2Proof.Machine
end

section
/-! PROOF. The statements of 40_checksum.md: the header checksum (R90), the CRC recipe and its fold (R91 to R93), the bit-serial
form (R94) and the algebra of `CRC32` (R96). One fact carries R94 and R96: to fold a byte in is to XOR it into the running value
and shift eight times, and a shift is linear. -/

namespace Sys2Proof.Machine

/-! ### A word and its low byte -/

theorem and_low_byte (v : Word) : v &&& 0x000000FF#32 = (v.extractLsb' 0 8).setWidth 32 := by
  apply BitVec.eq_of_getLsbD_eq
  intro i hi
  interval_cases i <;> simp

theorem extract_low_byte_setWidth (c : Byte) : (c.setWidth 32 : Word).extractLsb' 0 8 = c := by
  apply BitVec.eq_of_getLsbD_eq
  intro i hi
  have hword : i < 32 := by omega
  simp [hi, hword]

/-- Every bit of an extended byte is among the low eight. -/
theorem setWidth_byte_ushiftRight (c : Byte) : (c.setWidth 32 : Word) >>> 8 = 0#32 := by
  apply BitVec.eq_of_getLsbD_eq
  intro i hi
  simp

/-- A word is its low byte and the bits above it. -/
theorem low_byte_xor_high_bits (v : Word) : (v &&& 0x000000FF#32) ^^^ (v >>> 8) <<< 8 = v := by
  apply BitVec.eq_of_getLsbD_eq
  intro i hi
  interval_cases i <;> simp

theorem shiftLeft_ushiftRight_byte (v : Word) : ((v >>> 8) <<< 8) >>> 8 = v >>> 8 := by
  apply BitVec.eq_of_getLsbD_eq
  intro i hi
  interval_cases i <;> simp

/-- The mask of R92 changes nothing: a logical shift brings zeros in. -/
theorem ushiftRight_and_mask (crc : Word) : (crc >>> 8) &&& 0x00FFFFFF#32 = crc >>> 8 := by
  apply BitVec.eq_of_getLsbD_eq
  intro i hi
  interval_cases i <;> simp

/-! ### The iterations of the recipe -/

theorem crcShift_eq (v : Word) : crcShift v = (v >>> 1) ^^^ (if v.getLsbD 0 then Config.poly else 0#32) := by
  unfold crcShift
  split
  · rfl
  · exact BitVec.xor_zero.symm

/-- The last iteration split off; `crcShifts_succ` splits off the first. -/
theorem crcShifts_succ_last (n : Nat) (v : Word) : crcShifts (n + 1) v = crcShift (crcShifts n v) := by
  induction n generalizing v with
  | zero => rfl
  | succ n ih => rw [crcShifts_succ, ih, crcShifts_succ]

/-- While the tested bits are 0, the iterations are a bare shift. -/
theorem crcShifts_of_low_zeros {n : Nat} {v : Word} (h : ∀ i < n, v.getLsbD i = false) : crcShifts n v = v >>> n := by
  induction n generalizing v with
  | zero => simp [crcShifts]
  | succ n ih =>
    have hfirst : crcShift v = v >>> 1 := by rw [crcShift, h 0 n.succ_pos]; rfl
    have hrest : ∀ i < n, (v >>> 1).getLsbD i = false := fun i hi => by
      rw [BitVec.getLsbD_ushiftRight]
      exact h (1 + i) (by omega)
    rw [crcShifts_succ, hfirst, ih hrest, ← BitVec.shiftRight_add, Nat.add_comm]

/-- The feedback word depends on `crc` and `c` through one byte only (R91). -/
theorem crcF_eq (crc : Word) (c : Byte) : crcF crc c = crcShifts 8 ((crc.extractLsb' 0 8 ^^^ c).setWidth 32) := by
  rw [crcF, and_low_byte, BitVec.extractLsb'_xor, extract_low_byte_setWidth]

theorem crcUpdate_eq (crc : Word) (c : Byte) : crcUpdate crc c = (crc >>> 8) ^^^ crcF crc c := by
  rw [crcUpdate, ushiftRight_and_mask]

/-- Folding a byte in is eight iterations on the whole running value with the byte XORed in: the bits above the low byte
are shifted without being tested, so that they may take part in the iterations or be added afterwards (R92). -/
theorem crcUpdate_eq_crcShifts (crc : Word) (c : Byte) : crcUpdate crc c = crcShifts 8 (crc ^^^ c.setWidth 32) := by
  have hhigh (v : Word) : crcShifts 8 ((v >>> 8) <<< 8) = v >>> 8 := by
    have hlow : ∀ i < 8, ((v >>> 8) <<< 8).getLsbD i = false := fun i hi => by simp [hi]
    rw [crcShifts_of_low_zeros hlow, shiftLeft_ushiftRight_byte]
  calc crcUpdate crc c
      = crcF crc c ^^^ (crc ^^^ c.setWidth 32) >>> 8 := by
        rw [crcUpdate_eq, BitVec.ushiftRight_xor_distrib, setWidth_byte_ushiftRight, BitVec.xor_zero, BitVec.xor_comm]
    _ = crcShifts 8 (crc ^^^ c.setWidth 32) := by
        rw [← hhigh, crcF, ← crcShifts_xor, low_byte_xor_high_bits]

/-! ### The bit-serial form -/

/-- The register of R94 after the first `i` bits of `c`. -/
def bitSerial (crc : Word) (c : Byte) (i : Nat) : Word :=
  (List.range i).foldl (fun acc j => crcBit acc (c.getLsbD j)) crc

theorem bitSerial_succ (crc : Word) (c : Byte) (i : Nat) :
    bitSerial crc c (i + 1) = crcBit (bitSerial crc c i) (c.getLsbD i) := by
  simp [bitSerial, List.range_succ]

/-- A register that holds data bits ahead of their turn shifts them along and takes the lowest one in. -/
theorem crcShift_xor_pending (crc d : Word) : crcShift (crc ^^^ d) = crcBit crc (d.getLsbD 0) ^^^ d >>> 1 := by
  rw [crcShift_eq, BitVec.ushiftRight_xor_distrib, BitVec.getLsbD_xor, crcBit]
  ac_rfl

/-- After `i` iterations the recipe is ahead of the bit-serial register by the bits of `c` not yet taken. -/
theorem crcShifts_eq_bitSerial (crc : Word) (c : Byte) {i : Nat} (hi : i ≤ 8) :
    crcShifts i (crc ^^^ c.setWidth 32) = bitSerial crc c i ^^^ (c.setWidth 32) >>> i := by
  induction i with
  | zero => rw [BitVec.ushiftRight_zero]; rfl
  | succ i ih =>
    have hbit : ((c.setWidth 32 : Word) >>> i).getLsbD 0 = c.getLsbD i := by simp; omega
    rw [crcShifts_succ_last, ih (by omega), crcShift_xor_pending, hbit, bitSerial_succ, ← BitVec.shiftRight_add]

theorem crcUpdate_eq_bitSerial (crc : Word) (c : Byte) : crcUpdate crc c = bitSerial crc c 8 := by
  rw [crcUpdate_eq_crcShifts, crcShifts_eq_bitSerial crc c le_rfl, setWidth_byte_ushiftRight, BitVec.xor_zero]

/-- Settles O12: the nine words are those of `bitSerial`. -/
theorem bitSerialFormEqualsCrcUpd : Obligations.BitSerialFormEqualsCrcUpd :=
  ⟨fun crc c => ⟨bitSerial crc c, rfl, fun i _ => bitSerial_succ crc c i, rfl, crcUpdate_eq_bitSerial crc c⟩, by decide⟩

/-! ### The algebra of `CRC32` -/

theorem crcUpdate_zero : crcUpdate 0#32 0x00#8 = 0#32 := by decide

/-- Settles O13: a zero byte leaves the initial value as it is, so that the fold begins where it would without it. -/
theorem crc32LeadingZerosAreInvisible : Obligations.Crc32LeadingZerosAreInvisible := by
  intro k s
  have hzeros : frameChecksum (List.replicate k 0x00#8) = 0#32 := by
    induction k with
    | zero => rfl
    | succ k ih => rw [List.replicate_succ', frameChecksum_append, ih]; exact crcUpdate_zero
  rw [frameChecksum_append, hzeros]
  rfl

/-- Folding in is linear in the running value and the byte together. -/
theorem crcUpdate_xor (p q : Word) (x y : Byte) : crcUpdate (p ^^^ q) (x ^^^ y) = crcUpdate p x ^^^ crcUpdate q y := by
  have hmix : (p ^^^ q) ^^^ (x ^^^ y).setWidth 32 = (p ^^^ x.setWidth 32) ^^^ (q ^^^ y.setWidth 32) := by
    rw [BitVec.setWidth_xor]
    ac_rfl
  rw [crcUpdate_eq_crcShifts, crcUpdate_eq_crcShifts, crcUpdate_eq_crcShifts, hmix, crcShifts_xor]

theorem foldl_crcUpdate_xor {a b : List Byte} (h : a.length = b.length) (p q : Word) :
    (List.zipWith (fun x y => x ^^^ y) a b).foldl crcUpdate (p ^^^ q) =
      a.foldl crcUpdate p ^^^ b.foldl crcUpdate q := by
  induction a generalizing b p q with
  | nil =>
    obtain rfl := List.length_eq_zero_iff.mp h.symm
    rfl
  | cons x a ih =>
    cases b with
    | nil => cases h
    | cons y b =>
      simp only [List.zipWith_cons_cons, List.foldl_cons, crcUpdate_xor]
      exact ih (Nat.succ.inj h) _ _

/-- Settles O14: the fold is linear, and its initial value 0 is the XOR of two initial values. -/
theorem crc32IsLinear : Obligations.Crc32IsLinear :=
  fun _ _ h => foldl_crcUpdate_xor h Config.crcInit Config.crcInit

/-- A running value that is fed its own low byte only shifts. -/
theorem crcUpdate_low_byte (crc : Word) : crcUpdate crc (crc.extractLsb' 0 8) = crc >>> 8 := by
  rw [crcUpdate_eq, crcF_eq, BitVec.xor_self]
  exact BitVec.xor_zero

/-- The low byte of a shifted word is a byte of the word it was shifted from. -/
theorem crcUpdate_byte_of_shifted (v : Word) (n : Nat) : crcUpdate (v >>> n) (v.extractLsb' n 8) = v >>> (n + 8) := by
  have hbyte : v.extractLsb' n 8 = (v >>> n).extractLsb' 0 8 := by
    apply BitVec.eq_of_getLsbD_eq
    intro i hi
    simp
  rw [hbyte, crcUpdate_low_byte, BitVec.shiftRight_add]

theorem foldl_crcUpdate_own_bytes (v : Word) : (pack32 .little v).foldl crcUpdate v = 0#32 := by
  have hfirst : crcUpdate v (v.extractLsb' 0 8) = v >>> 8 := crcUpdate_low_byte v
  have hdone : v >>> 32 = 0#32 := BitVec.ushiftRight_eq_zero le_rfl
  simp only [pack32, List.foldl_cons, List.foldl_nil, hfirst, crcUpdate_byte_of_shifted, Nat.reduceAdd, hdone]

theorem frameChecksum_residue (s : List Byte) : frameChecksum (s ++ pack32 .little (frameChecksum s)) = 0#32 := by
  rw [frameChecksum_append, foldl_crcUpdate_own_bytes]

/-- Settles O15: the four bytes of the checksum shift it out, and a `LITTLE` content ends with them. -/
theorem crc32ResidueIsZero : Obligations.Crc32ResidueIsZero :=
  ⟨frameChecksum_residue, fun _ _ => frameChecksum_residue _⟩

/-! ### The header checksum -/

@[simp] theorem exec_hck (b0 b1 b2 b3 : Byte) (s : State) :
    exec (.hck b0 b1 b2 b3) s = .next { s with result := .byte (headerChecksum b0 b1 b2 b3) } := rfl

/-- An error in one covered byte is an error in the checksum. -/
theorem headerChecksum_xor (b0 b1 b2 b3 x : Byte) :
    headerChecksum (b0 ^^^ x) b1 b2 b3 = headerChecksum b0 b1 b2 b3 ^^^ x ∧
    headerChecksum b0 (b1 ^^^ x) b2 b3 = headerChecksum b0 b1 b2 b3 ^^^ x ∧
    headerChecksum b0 b1 (b2 ^^^ x) b3 = headerChecksum b0 b1 b2 b3 ^^^ x ∧
    headerChecksum b0 b1 b2 (b3 ^^^ x) = headerChecksum b0 b1 b2 b3 ^^^ x := by
  unfold headerChecksum
  refine ⟨?_, ?_, ?_, ?_⟩ <;> ac_rfl

theorem xor_ne_self {a x : Byte} (hx : x ≠ 0#8) : a ^^^ x ≠ a := by
  intro h
  exact hx ((BitVec.xor_right_inj a).mp (h.trans BitVec.xor_zero.symm))

/-- The header is its four covered bytes and their checksum. -/
theorem headerPack_of_bytes {e : Endian} {flags n : Half} {b0 b1 b2 b3 : Byte}
    (h : pack16 e flags ++ pack16 e n = [b0, b1, b2, b3]) :
    headerPack e flags n = [b0, b1, b2, b3, headerChecksum b0 b1 b2 b3] := by
  rw [headerPack, h]
  rfl

theorem take_frameContent_header (e : Endian) (flags : Half) (payload : List Byte) :
    (frameContent e flags payload).take 5 = headerPack e flags (BitVec.ofNat 16 payload.length) := by
  rw [frameContent, List.append_assoc, List.take_left' (length_headerPack ..)]

theorem exists_covered_bytes (e : Endian) (flags n : Half) :
    ∃ b0 b1 b2 b3 : Byte, pack16 e flags ++ pack16 e n = [b0, b1, b2, b3] := by
  cases e <;> exact ⟨_, _, _, _, rfl⟩

/-- XOR is commutative, so that the byte order does not matter (R90). -/
theorem headerChecksum_of_pack16 {e : Endian} {flags n : Half} {b0 b1 b2 b3 : Byte}
    (h : pack16 e flags ++ pack16 e n = [b0, b1, b2, b3]) :
    headerChecksum b0 b1 b2 b3 =
      flags.extractLsb' 0 8 ^^^ flags.extractLsb' 8 8 ^^^ n.extractLsb' 0 8 ^^^ n.extractLsb' 8 8 := by
  cases e <;>
  · obtain ⟨rfl, rfl, rfl, rfl⟩ : _ ∧ _ ∧ _ ∧ _ := by simpa [pack16] using h
    unfold headerChecksum
    ac_rfl

theorem headerChecksum_equal_pairs (b c : Byte) : headerChecksum b b c c = 0#8 := by
  simp [headerChecksum]

/-- Settles O8: a change `x` in one byte is a change `x` in the checksum; the same change in two bytes cancels. -/
theorem hckIsTheXorOfFourBytes : Obligations.HckIsTheXorOfFourBytes := by
  refine ⟨fun _ _ _ _ => rfl, fun e flags payload => ?_, fun _ _ _ _ _ => xor_ne_self, exec_hck,
    fun _ _ _ _ _ _ _ => headerChecksum_of_pack16, by decide, headerChecksum_equal_pairs,
    fun b0 b1 b2 b3 x hx => ?_, ⟨0#8, 0#8, 0#8, 0#8, 1#8, by decide, by decide⟩, by decide, by decide, by decide⟩
  · obtain ⟨b0, b1, b2, b3, hbytes⟩ := exists_covered_bytes e flags (BitVec.ofNat 16 payload.length)
    exact ⟨b0, b1, b2, b3, (take_frameContent_header ..).trans (headerPack_of_bytes hbytes)⟩
  · obtain ⟨h0, h1, h2, h3⟩ := headerChecksum_xor b0 b1 b2 b3 x
    rw [h0, h1, h2, h3]
    exact ⟨xor_ne_self hx, xor_ne_self hx, xor_ne_self hx, xor_ne_self hx⟩

/-! ### The feedback word, the update and the fold -/

@[simp] theorem exec_crcUpd (crc : Word) (c : Byte) (s : State) :
    exec (.crcUpd crc c) s = .next { s with result := .word (crcUpdate crc c) } := rfl

@[simp] theorem exec_crc32 (bytes : List Byte) (s : State) :
    exec (.crc32 bytes) s = .next { s with result := .word (frameChecksum bytes) } := rfl

theorem crcF_of_low_byte (crc : Word) (c : Byte) : crcF crc c = crcF 0#32 (crc.extractLsb' 0 8 ^^^ c) := by
  rw [crcF_eq, crcF_eq 0#32]
  simp

/-- Settles O9: the nine words are those of `crcShifts`, each the `crcShift` of the one before. -/
theorem crcFeedbackWordIsTheRecipe : Obligations.CrcFeedbackWordIsTheRecipe :=
  ⟨fun crc c => ⟨fun k => crcShifts k ((crc ^^^ c.setWidth 32) &&& 0x000000FF#32), rfl,
    fun k _ => crcShifts_succ_last k _, rfl⟩, crcF_of_low_byte, by decide, by decide, by decide, by decide, by decide,
    by decide, by decide, by decide, by decide, by decide⟩

/-- Settles O10: the row answers on the result port alone, and the mask falls away. -/
theorem crcUpdFoldsOneByte : Obligations.CrcUpdFoldsOneByte :=
  ⟨fun _ _ => rfl, exec_crcUpd, ushiftRight_and_mask, by decide, by decide, by decide, by decide, by decide⟩

theorem frameChecksum_concat (bytes : List Byte) (c : Byte) :
    frameChecksum (bytes ++ [c]) = crcUpdate (frameChecksum bytes) c := frameChecksum_append bytes [c]

/-- Settles O11: the five header bytes of a frame are `headerPack`. -/
theorem crc32IsTheFoldOfCrcUpd : Obligations.Crc32IsTheFoldOfCrcUpd :=
  ⟨fun _ => rfl, fun e flags payload => ⟨headerPack e flags (BitVec.ofNat 16 payload.length), length_headerPack .., rfl⟩,
    exec_crc32, frameChecksum_nil, frameChecksum_concat, by decide⟩

end Sys2Proof.Machine
end

section
/-! PROOF. The statements of 41_bytestuff.md: the escaper (R106 to R108) with its transmit symbols, the three arms of the
unescaper (R109), the escape marker in front of any byte (R110), and the batch form with its inverse property (R112). -/

namespace Sys2Proof.Machine

/-! ### The escaper -/

@[simp] theorem exec_escEnc (b : Byte) (s : State) :
    exec (.escEnc b) s = .next { s with result := .bytes (escapeByte b) } := rfl

@[simp] theorem exec_escape (bytes : List Byte) (s : State) :
    exec (.escape bytes) s = .next { s with result := .bytes (escapeBytes bytes) } := rfl

theorem escapeByte_of_reserved {b : Byte} (h : b = Config.marker ∨ b = Config.esc) : escapeByte b = [Config.esc, b] :=
  if_pos ((reserved_iff b).mpr h)

theorem reserved_eq_false {b : Byte} (hmarker : b ≠ Config.marker) (hesc : b ≠ Config.esc) : reserved b = false := by
  rw [Bool.eq_false_iff, ne_eq, reserved_iff]
  exact not_or_intro hmarker hesc

theorem escapeByte_of_not_reserved {b : Byte} (hmarker : b ≠ Config.marker) (hesc : b ≠ Config.esc) :
    escapeByte b = [b] := by
  simp [escapeByte, reserved_eq_false hmarker hesc]

theorem escapeBytes_of_not_reserved {s : List Byte} (h : ∀ b ∈ s, b ≠ Config.marker ∧ b ≠ Config.esc) :
    escapeBytes s = s := by
  induction s with
  | nil => rfl
  | cons b s ih =>
    obtain ⟨⟨hmarker, hesc⟩, hrest⟩ := List.forall_mem_cons.mp h
    rw [escapeBytes_cons, escapeByte_of_not_reserved hmarker hesc, ih hrest, List.singleton_append]

/-- Settles O16: the row answers `escapeByte` on the result port alone, in its two forms. -/
theorem escEncEscapesReservedBytes : Obligations.EscEncEscapesReservedBytes := by
  refine ⟨fun _ => rfl, fun b s hb => ?_, fun b s hmarker hesc => ?_, by decide, by decide, by decide, by decide⟩
  · rw [exec_escEnc, escapeByte_of_reserved hb]
    rfl
  · rw [exec_escEnc, escapeByte_of_not_reserved hmarker hesc]

/-- Settles O17: escaping goes byte by byte, so it distributes over concatenation and leaves what is not reserved. -/
theorem escapeIsBytewise : Obligations.EscapeIsBytewise :=
  ⟨fun _ => rfl, fun _ _ _ => rfl, exec_escape, escapeBytes_nil, escapeBytes_cons, escapeBytes_append,
    fun _ => escapeBytes_of_not_reserved, by decide, by decide⟩

/-! ### The transmit symbols -/

theorem exec_txPlain (b : Byte) (s : State) :
    exec (.txPlain b) s =
      if reserved b then .refused .operandOutOfRange else .next { s with result := .bytes [b] } := rfl

/-- Settles O21: each symbol delivers one of the forms of `escapeByte`. -/
theorem txSymbolsAreTheEscapersOutput : Obligations.TxSymbolsAreTheEscapersOutput := by
  refine ⟨fun b s hmarker hesc => ?_, fun _ => ⟨rfl, rfl⟩, fun _ => ⟨rfl, rfl⟩, fun b s hb => ?_⟩
  · have hplain : exec (.txPlain b) s = .next { s with result := .bytes [b] } := by
      simp [exec_txPlain, reserved_eq_false hmarker hesc]
    exact ⟨hplain, by rw [hplain, exec_escEnc, escapeByte_of_not_reserved hmarker hesc]⟩
  · rw [exec_txPlain, if_pos ((reserved_iff b).mpr hb)]

/-! ### The length of an escaped sequence, and the markers in it -/

/-- Every `MARKER` in the sequence has `ESC` right before it (R108). -/
def markersFollowEsc (s : List Byte) : Prop :=
  ∀ k, s[k]? = some Config.marker → 0 < k ∧ s[k - 1]? = some Config.esc

theorem markersFollowEsc_append {s t : List Byte} (hs : markersFollowEsc s) (ht : markersFollowEsc t) :
    markersFollowEsc (s ++ t) := by
  intro k hk
  by_cases hlt : k < s.length
  · rw [List.getElem?_append_left hlt] at hk
    obtain ⟨hpos, hesc⟩ := hs k hk
    exact ⟨hpos, by rwa [List.getElem?_append_left (by omega)]⟩
  · rw [List.getElem?_append_right (by omega)] at hk
    obtain ⟨hpos, hesc⟩ := ht _ hk
    refine ⟨by omega, ?_⟩
    rwa [List.getElem?_append_right (by omega), Nat.sub_right_comm]

theorem markersFollowEsc_escapeByte (b : Byte) : markersFollowEsc (escapeByte b) := by
  have hne : Config.esc ≠ Config.marker := by decide
  intro k hk
  rcases escapeByte_cases b with ⟨-, h⟩ | ⟨-, h⟩ | ⟨hmarker, -, h⟩ <;> rw [h] at hk ⊢
  · match k with
    | 0 => exact absurd (Option.some.inj hk) hne
    | 1 => exact ⟨Nat.one_pos, rfl⟩
  · match k with
    | 0 => exact absurd (Option.some.inj hk) hne
    | 1 => exact absurd (Option.some.inj hk) hne
  · match k with
    | 0 => exact absurd (Option.some.inj hk) hmarker

theorem markersFollowEsc_escapeBytes (s : List Byte) : markersFollowEsc (escapeBytes s) := by
  induction s with
  | nil => exact nofun
  | cons b s ih => exact markersFollowEsc_append (markersFollowEsc_escapeByte b) ih

/-- Settles O18: the lengths are `length_escapeBytes` with none, some or all of the bytes reserved. -/
theorem escapeLengthAndMarkers : Obligations.EscapeLengthAndMarkers := by
  refine ⟨length_escapeBytes, fun s => ?_, fun n => ?_, markersFollowEsc_escapeBytes⟩
  · have hreserved : reservedCount s ≤ s.length := List.countP_le_length
    rw [length_escapeBytes]
    omega
  · have hall : reservedCount (List.replicate n 0xAA#8) = n := List.countP_replicate
    rw [length_escapeBytes, hall, List.length_replicate]
    omega

/-! ### The unescaper -/

/-- Settles O19: the arms are the branches of `UNESC` in the order they are tested. -/
theorem unescHasThreeArms : Obligations.UnescHasThreeArms := by
  intro d s
  refine ⟨fun hu => if_pos hu, fun hu hd => ?marker, fun hu hd => ?plain⟩
  case marker => exact (if_neg (by simp [hu])).trans (if_pos hd)
  case plain => exact (if_neg (by simp [hu])).trans (if_neg hd)

theorem unescape_marker {s : State} (hu : s.unescaping = false) :
    unescape Config.esc s = ({ s with buf := s.buf.write s.cursor Config.esc, unescaping := true }, false) := by
  obtain ⟨-, hmarker, -⟩ := unescHasThreeArms Config.esc s
  exact hmarker hu rfl

/-- Both arms that complete a logical byte leave the same state: the flag is 0 afterwards. -/
theorem unescape_logical {d : Byte} {s : State} (hd : ¬(s.unescaping = false ∧ d = Config.esc)) :
    unescape d s = (s.counted d, true) := by
  rcases unescape_cases d s with ⟨hu, hesc, -⟩ | ⟨-, h⟩
  · exact absurd ⟨hu, hesc⟩ hd
  · exact h

/-! ### The batch form -/

theorem unescapeBytes_marker (r : List Byte) : unescapeBytes false (Config.esc :: r) = unescapeBytes true r := rfl

theorem unescapeBytes_logical {u : Bool} {d : Byte} (hd : ¬(u = false ∧ d = Config.esc)) (r : List Byte) :
    unescapeBytes u (d :: r) = (d :: (unescapeBytes false r).1, (unescapeBytes false r).2) := by
  cases u with
  | true => rfl
  | false => exact if_neg fun hesc => hd ⟨rfl, hesc⟩

/-- Unescaping takes each escaped byte off as one logical byte. -/
theorem unescapeBytes_escapeByte_append (b : Byte) (r : List Byte) :
    unescapeBytes false (escapeByte b ++ r) = (b :: (unescapeBytes false r).1, (unescapeBytes false r).2) := by
  rcases escapeByte_cases b with ⟨rfl, h⟩ | ⟨rfl, h⟩ | ⟨-, hesc, h⟩ <;> rw [h]
  · rfl
  · rfl
  · exact unescapeBytes_logical (fun hd => hesc hd.2) r

theorem unescapeBytes_escapeBytes (s : List Byte) : unescapeBytes false (escapeBytes s) = (s, false) := by
  induction s with
  | nil => rfl
  | cons b s ih => rw [escapeBytes_cons, unescapeBytes_escapeByte_append, ih]

theorem Memory.readN_succ (m : Memory) (a n : Nat) : m.readN a (n + 1) = m.read a :: m.readN (a + 1) n := by
  simp [Memory.readN, List.range_succ_eq_map, Function.comp_def, Nat.add_comm, Nat.add_left_comm]

/-- `t` is `s` with `logical` stored from `cursor` on and counted, and the flag at `flag`. -/
structure State.Received (s : State) (logical : List Byte) (flag : Bool) (t : State) : Prop where
  cursor : t.cursor = s.cursor + logical.length
  stored : t.buf.readN s.cursor logical.length = logical
  unescaping : t.unescaping = flag
  below : ∀ x, x < s.cursor → t.buf.read x = s.buf.read x
  state : t.state = s.state
  cfg : t.cfg = s.cfg
  input : t.input = s.input

theorem State.Received.nil (s : State) : s.Received [] s.unescaping s :=
  ⟨rfl, rfl, rfl, fun _ _ => rfl, rfl, rfl, rfl⟩

/-- A marker adds no logical byte: what it stored is at `cursor`, where the next byte goes. -/
theorem State.Received.of_marker {s t : State} {d : Byte} {logical : List Byte} {u flag : Bool}
    (h : ({ s with buf := s.buf.write s.cursor d, unescaping := u } : State).Received logical flag t) :
    s.Received logical flag t where
  cursor := h.cursor
  stored := h.stored
  unescaping := h.unescaping
  below x hx := (h.below x hx).trans (Memory.read_write_other _ _ (Nat.ne_of_lt hx))
  state := h.state
  cfg := h.cfg
  input := h.input

/-- A logical byte stays where it was stored, below the bytes that come after it. -/
theorem State.Received.cons {s t : State} {d : Byte} {logical : List Byte} {flag : Bool}
    (h : (s.counted d).Received logical flag t) : s.Received (d :: logical) flag t where
  cursor := h.cursor.trans (Nat.succ_add_eq_add_succ ..)
  stored := by
    have hd : t.buf.read s.cursor = d := (h.below s.cursor (Nat.lt_succ_self _)).trans (Memory.read_write_same ..)
    rw [List.length_cons, Memory.readN_succ, hd]
    exact congrArg (d :: ·) h.stored
  unescaping := h.unescaping
  below x hx := (h.below x (Nat.lt_succ_of_lt hx)).trans (Memory.read_write_other _ _ (Nat.ne_of_lt hx))
  state := h.state
  cfg := h.cfg
  input := h.input

/-- Raw bytes through `UNESC`, one after the other, are received as the batch form says (R112). -/
theorem foldl_unescape_received (r : List Byte) (s : State) :
    s.Received (unescapeBytes s.unescaping r).1 (unescapeBytes s.unescaping r).2
      (r.foldl (fun u d => (unescape d u).1) s) := by
  induction r generalizing s with
  | nil => exact State.Received.nil s
  | cons d r ih =>
    rw [List.foldl_cons]
    by_cases hd : s.unescaping = false ∧ d = Config.esc
    · obtain ⟨hu, rfl⟩ := hd
      rw [unescape_marker hu, hu, unescapeBytes_marker]
      exact (ih _).of_marker
    · rw [unescape_logical hd, unescapeBytes_logical hd]
      exact (ih _).cons

/-- Settles O20: `foldl_unescape_received` is the simulation, `unescapeBytes_escapeBytes` the inverse property. -/
theorem unescapeBatchForm : Obligations.UnescapeBatchForm := by
  refine ⟨fun u => by cases u <;> rfl, fun _ _ => rfl, unescapeBytes_marker, fun d r hd => ?_, fun r s => ?_,
    unescapeBytes_escapeBytes⟩
  · exact unescapeBytes_logical (fun h => hd h.2) r
  · have h := foldl_unescape_received r s
    exact ⟨h.cursor, h.stored, h.unescaping, h.below, h.state, h.cfg, h.input⟩

/-! ### An escape marker in front of any byte -/

theorem Memory.filter_insertCell (m : Memory) (a : Nat) (b : Byte) :
    (Memory.insertCell a b m).filter (fun c => c.1 != a) = m.filter (fun c => c.1 != a) := by
  induction m with
  | nil => simp [Memory.insertCell]
  | cons c m ih =>
    obtain ⟨k, v⟩ := c
    by_cases hlt : a < k
    · simp [Memory.insertCell, hlt]
    · simp [Memory.insertCell, hlt, List.filter_cons, ih]

/-- A write leaves nothing of an earlier write to the same index: the two buffers are the same data. -/
theorem Memory.write_write_same (m : Memory) (a : Nat) (b b' : Byte) : (m.write a b).write a b' = m.write a b' := by
  have hrest : (m.write a b).filter (fun c => c.1 != a) = m.filter (fun c => c.1 != a) := by
    unfold Memory.write
    split <;> simp [Memory.filter_insertCell, List.filter_filter]
  rw [Memory.write, hrest, Memory.write]

/-- The byte after a marker overwrites it, so that `UNESC` leaves what it leaves for the byte alone. -/
theorem unescape_after_marker {d : Byte} {s : State} (hd : d ≠ Config.esc) :
    unescape d { s with buf := s.buf.write s.cursor Config.esc, unescaping := true } = unescape d s := by
  rw [unescape_logical (by simp), unescape_logical fun h => hd h.2]
  simp [State.counted, Memory.write_write_same]

/-- `UNESC` is all that a reading stage does with the byte, the flag and the byte stored before. -/
theorem feedStep_congr_unescape {d : Byte} {s t : State} (hst : s.state ≠ .seekingPreamble) (hstage : t.state = s.state)
    (h : unescape d t = unescape d s) : feedStep d t = feedStep d s := by
  cases hs : s.state with
  | seekingPreamble => exact absurd hs hst
  | readingHeader => rw [feedStep_header hs, feedStep_header (hstage.trans hs), headerStep, headerStep, h]
  | readingBody => rw [feedStep_body hs, feedStep_body (hstage.trans hs), bodyStep, bodyStep, h]

/-- `1B d` leaves what a bare `d` leaves: the marker's trace name and result are overwritten as well. -/
theorem feedStep_after_marker {d : Byte} {s : State} (hst : s.state ≠ .seekingPreamble) (hd : d ≠ Config.esc) :
    feedStep d (s.marked Config.esc) = feedStep d s := by
  have hport := feedStep_set_port d { s with buf := s.buf.write s.cursor Config.esc, unescaping := true }
    (.feed none) (some .evEsc)
  exact hport.trans (feedStep_congr_unescape hst rfl (unescape_after_marker hd))

/-- Settles O27: the marker sets the flag, so that whatever comes next is one logical byte. -/
theorem anyByteMayFollowAnEscapeMarker : Obligations.AnyByteMayFollowAnEscapeMarker := by
  intro s d hs hst hu
  have hmarker : feedByte Config.esc s = .next (s.marked Config.esc) := by
    rw [feedByte_of_inv _ hs, feedStep_marker hst hu]
  have hcap : (s.marked Config.esc).cursor < (s.marked Config.esc).cfg.cap := hs.cursor_lt_cap
  obtain ⟨u, hfeed, -, hflag, ⟨hstored, -⟩, hcursor⟩ :=
    feedByte_logical (d := d) (s := s.marked Config.esc) hst hcap (by simp)
  refine ⟨s.marked Config.esc, u, hmarker, rfl, hfeed, hflag, hstored, hcursor, fun hd => ?_⟩
  rwa [feedByte_of_lt hcap, feedStep_after_marker hst hd, ← feedByte_of_inv d hs] at hfeed

end Sys2Proof.Machine
end

section
/-! PROOF. The statements of 42_framesync.md that are about a whole frame: garbage and a frame are received as that frame
(R142, R143). The search follows the window of the last three raw bytes; the content follows the bytes below `cursor`. -/

namespace Sys2Proof.Machine

/-! ### Reading consecutive bytes -/

theorem Memory.readN_concat (m : Memory) (a n : Nat) : m.readN a (n + 1) = m.readN a n ++ [m.read (a + n)] := by
  simp [Memory.readN, List.range_succ]

theorem Memory.readN_add (m : Memory) (a k n : Nat) : m.readN a (k + n) = m.readN a k ++ m.readN (a + k) n := by
  induction n with
  | zero => simp [Memory.readN]
  | succ n ih => rw [← Nat.add_assoc, Memory.readN_concat, ih, Memory.readN_concat, List.append_assoc, Nat.add_assoc]

/-- A store at the end of a range appends its byte to what the range reads. -/
theorem Memory.readN_write_concat (m : Memory) (a n : Nat) (d : Byte) :
    (m.write (a + n) d).readN a (n + 1) = m.readN a n ++ [d] := by
  rw [Memory.readN_concat, Memory.read_write_same]
  congr 1
  exact Memory.readN_congr fun x _ hx => Memory.read_write_other m d (Nat.ne_of_lt hx)

/-! ### The window of the search -/

/-- The raw bytes a match may still begin with: the last three before `cursor`, or all there are (R123). -/
abbrev State.window (s : State) : List Byte := s.buf.readN (s.cursor - min s.cursor 3) (min s.cursor 3)

/-- The raw byte `d` completes the preamble: the condition of `SEEK_STEP` (R122, R123). -/
abbrev State.completesPreamble (s : State) (d : Byte) : Prop := 3 ≤ s.cursor ∧ preambleMatch (s.stored d) = true

theorem State.length_window (s : State) : s.window.length = min s.cursor 3 := Memory.length_readN ..

theorem State.fresh.window_eq {s : State} (h : s.fresh) : s.window = [] := by
  obtain ⟨-, hcursor, -⟩ := h
  simp [State.window, hcursor, Memory.readN]

theorem unpack32_eq_iff {e : Endian} {b0 b1 b2 b3 : Byte} {v : Word} :
    unpack32 e b0 b1 b2 b3 = v ↔ [b0, b1, b2, b3] = pack32 e v :=
  ⟨fun h => h ▸ (pack32_unpack32 e b0 b1 b2 b3).symm, fun h => unpack32_of_pack32 h.symm⟩

/-- The condition as R123 writes it: the four bytes read as `PREAMBLE`. -/
theorem State.completesPreamble_iff {s : State} {d : Byte} :
    s.completesPreamble d ↔ 3 ≤ s.cursor ∧
      unpack32 s.cfg.endian (s.buf.read (s.cursor - 3)) (s.buf.read (s.cursor - 2)) (s.buf.read (s.cursor - 1)) d =
        s.cfg.preamble := by
  refine and_congr_right fun h3 => ?_
  obtain ⟨n, hn⟩ : ∃ n, s.cursor = n + 3 := ⟨s.cursor - 3, by omega⟩
  simp [preambleMatch, State.rd32, hn, Memory.read_write]

theorem State.window_of_three_le {s : State} (h : 3 ≤ s.cursor) :
    s.window = [s.buf.read (s.cursor - 3), s.buf.read (s.cursor - 2), s.buf.read (s.cursor - 1)] := by
  obtain ⟨n, hn⟩ : ∃ n, s.cursor = n + 3 := ⟨s.cursor - 3, by omega⟩
  simp [State.window, hn, Memory.readN, List.range_succ]

/-- The condition in terms of the window: a shorter one completes nothing. -/
theorem State.completesPreamble_iff_window {s : State} {d : Byte} :
    s.completesPreamble d ↔ s.window ++ [d] = pack32 s.cfg.endian s.cfg.preamble := by
  rw [State.completesPreamble_iff]
  by_cases h3 : 3 ≤ s.cursor
  · rw [State.window_of_three_le h3, unpack32_eq_iff]
    simp [h3]
  · refine iff_of_false (fun h => h3 h.1) fun h => ?_
    have hlength := congrArg List.length h
    rw [List.length_append, State.length_window, length_pack32, List.length_singleton] at hlength
    omega

/-- The window after a store: what fits of the window before and the byte. -/
theorem State.window_stored_suffix (s : State) (d : Byte) : (s.stored d).window <:+ s.window ++ [d] := by
  have hpast : s.window ++ [d] = (s.stored d).buf.readN (s.cursor - min s.cursor 3) (min s.cursor 3 + 1) := by
    have h := Memory.readN_write_concat s.buf (s.cursor - min s.cursor 3) (min s.cursor 3) d
    rw [Nat.sub_add_cancel (min_le_left _ _)] at h
    exact h.symm
  rw [hpast]
  obtain ⟨k, hk⟩ : ∃ k, min s.cursor 3 + 1 = k + min (s.cursor + 1) 3 := ⟨_, (Nat.sub_add_cancel (by omega)).symm⟩
  have hstart : s.cursor + 1 - min (s.cursor + 1) 3 = s.cursor - min s.cursor 3 + k := by omega
  rw [hk, Memory.readN_add, State.window, hstart]
  exact List.suffix_append _ _

/-- The slide keeps the window: the last four bytes go to the front (R126). -/
theorem State.window_slide {s : State} (hfull : s.cursor = s.cfg.cap) : s.slide.window = s.window := by
  have hcap := s.cfg.cap_eq
  have hfour : s.slide.buf.readN 0 (1 + 3) = s.buf.readN (s.cfg.cap - 4) (1 + 3) :=
    Memory.readN_writeN s.buf 0 (s.buf.readN (s.cfg.cap - 4) 4)
  rw [Memory.readN_add, Memory.readN_add] at hfour
  obtain ⟨-, hthree⟩ := List.append_inj hfour (by simp)
  have hmin : min s.cursor 3 = 3 := by omega
  have hstart : s.cursor - 3 = s.cfg.cap - 4 + 1 := by omega
  show s.slide.buf.readN (4 - min 4 3) (min 4 3) = _
  rw [State.window, hmin, hstart]
  exact hthree

/-! ### The search -/

/-- A receiver that seeks, as every run leaves it: the flag is 0 and `cursor` is in the buffer. -/
def State.seeks (s : State) : Prop := s.state = .seekingPreamble ∧ s.unescaping = false ∧ s.cursor < s.cfg.cap

theorem State.fresh.seeks {s : State} (h : s.fresh) : s.seeks := by
  obtain ⟨hst, hcursor, hu⟩ := h
  exact ⟨hst, hu, hcursor ▸ Nat.succ_pos _⟩

theorem State.Inv.seeks {s : State} (hs : s.Inv) (hst : s.state = .seekingPreamble) : s.seeks := by
  obtain ⟨-, hcursor, hflag, -⟩ := hs
  exact ⟨hst, hflag hst, hcursor⟩

/-- The byte that completes the preamble: the header stage begins, with `cursor` 0 (R124). -/
theorem seekStep_of_completes {s : State} {d : Byte} (hm : s.completesPreamble d) :
    seekStep d s = { s with
      buf := s.buf.write s.cursor d, cursor := 0, state := .readingHeader, event := some .evPreamble,
      result := .feed none } := by
  rcases seekStep_cases d s with ⟨-, -, h⟩ | ⟨hno, -⟩ | ⟨hno, -⟩
  · exact h
  · exact absurd hm hno
  · exact absurd hm hno

/-- Else a full buffer slides (R126). -/
theorem seekStep_of_full {s : State} {d : Byte} (hno : ¬s.completesPreamble d) (hfull : s.cursor + 1 = s.cfg.cap) :
    seekStep d s = { s with
      buf := (s.buf.write s.cursor d).writeN 0 ((s.buf.write s.cursor d).readN (s.cfg.cap - 4) 4), cursor := 4,
      event := some .evSlide, result := .feed none } := by
  rcases seekStep_cases d s with ⟨h3, hm, -⟩ | ⟨-, -, h⟩ | ⟨-, hroom, -⟩
  · exact absurd ⟨h3, hm⟩ hno
  · exact h
  · exact absurd hfull hroom

/-- Else the byte is stored (R122). -/
theorem seekStep_of_room {s : State} {d : Byte} (hno : ¬s.completesPreamble d) (hroom : s.cursor + 1 ≠ s.cfg.cap) :
    seekStep d s = { s with
      buf := s.buf.write s.cursor d, cursor := s.cursor + 1, event := some .evStore, result := .feed none } := by
  rcases seekStep_cases d s with ⟨h3, hm, -⟩ | ⟨-, hfull, -⟩ | ⟨-, -, h⟩
  · exact absurd ⟨h3, hm⟩ hno
  · exact absurd hfull hroom
  · exact h

/-- A byte that completes no preamble: the receiver goes on seeking, and the window moves on by the byte. -/
theorem seekStep_of_not_completes {s : State} {d : Byte} (hs : s.seeks) (hno : ¬s.completesPreamble d) :
    (seekStep d s).seeks ∧ (seekStep d s).window <:+ s.window ++ [d] ∧
      (seekStep d s).window.length = min (s.window.length + 1) 3 := by
  obtain ⟨hst, hu, hcursor⟩ := hs
  have hcap := s.cfg.cap_eq
  obtain ⟨hseeks, hwindow⟩ : (seekStep d s).seeks ∧ (seekStep d s).window = (s.stored d).window := by
    by_cases hfull : s.cursor + 1 = s.cfg.cap
    · rw [seekStep_of_full hno hfull]
      exact ⟨⟨hst, hu, show 4 < s.cfg.cap by omega⟩, State.window_slide (s := s.stored d) hfull⟩
    · rw [seekStep_of_room hno hfull]
      exact ⟨⟨hst, hu, show s.cursor + 1 < s.cfg.cap by omega⟩, rfl⟩
  refine ⟨hseeks, hwindow ▸ s.window_stored_suffix d, ?_⟩
  rw [hwindow, State.length_window, State.length_window]
  show min (s.cursor + 1) 3 = _
  omega

theorem feedByte_seeks {s : State} (hs : s.seeks) (d : Byte) : feedByte d s = .next (seekStep d s) := by
  obtain ⟨hst, -, hcursor⟩ := hs
  exact feedByte_seeking hst hcursor

theorem seekStep_cfg {s : State} (hs : s.seeks) (d : Byte) : (seekStep d s).cfg = s.cfg := by
  obtain ⟨hst, -⟩ := hs
  obtain ⟨hcfg, -⟩ := feedStep_same d s
  exact feedStep_seeking hst ▸ hcfg

/-- Raw bytes with no preamble in them, nor across the window and them: the receiver goes on seeking, and the window is
their last three. -/
theorem feedSeq_without_preamble (ds : List Byte) {s : State} (hs : s.seeks)
    (hno : ¬pack32 s.cfg.endian s.cfg.preamble <:+: s.window ++ ds) :
    ∃ t, feedSeq ds s = .next (t, []) ∧ t.seeks ∧ t.cfg = s.cfg ∧ t.window <:+ s.window ++ ds ∧
      t.window.length = min (s.window.length + ds.length) 3 := by
  induction ds generalizing s with
  | nil =>
    refine ⟨s, rfl, hs, rfl, by simp, ?_⟩
    have := s.length_window
    simp only [List.length_nil]
    omega
  | cons d ds ih =>
    have hsplit : s.window ++ d :: ds = (s.window ++ [d]) ++ ds := by simp
    rw [hsplit] at hno ⊢
    have hmiss : ¬s.completesPreamble d := fun hm =>
      hno (State.completesPreamble_iff_window.mp hm ▸ (List.prefix_append _ ds).isInfix)
    obtain ⟨hseeks, hsuffix, hlength⟩ := seekStep_of_not_completes hs hmiss
    have hcfg := seekStep_cfg hs d
    have hrest : (seekStep d s).window ++ ds <:+ s.window ++ [d] ++ ds := by
      obtain ⟨dropped, h⟩ := hsuffix
      exact ⟨dropped, by rw [← h, List.append_assoc]⟩
    obtain ⟨t, hseq, ht, htcfg, htsuffix, htlength⟩ := ih hseeks fun h =>
      hno (hcfg ▸ h.trans hrest.isInfix)
    refine ⟨t, feedSeq_cons_next_iff.mpr ⟨_, [], feedByte_seeks hs d, hseq, ?_⟩, ht, htcfg.trans hcfg,
      htsuffix.trans hrest, ?_⟩
    · rw [(seekStep_answer d s).1]
      rfl
    · rw [htlength, hlength, List.length_cons]
      omega

/-- `noEarlyMatch` says that the preamble does not occur in the garbage and all but the last byte of the preamble. -/
theorem not_infix_of_noEarlyMatch {c : Cfg} {garbage : List Byte} (h : noEarlyMatch c garbage) :
    ¬pack32 c.endian c.preamble <:+: garbage ++ (pack32 c.endian c.preamble).dropLast := by
  rintro ⟨before, after, hsplit⟩
  have hlength := congrArg List.length hsplit
  simp only [List.length_append, List.length_dropLast, length_pack32] at hlength
  have hne : pack32 c.endian c.preamble ≠ [] := List.ne_nil_of_length_pos (by simp)
  refine h before.length (by omega) ?_
  have hwhole : garbage ++ pack32 c.endian c.preamble =
      before ++ (pack32 c.endian c.preamble ++ (after ++ [(pack32 c.endian c.preamble).getLast hne])) := by
    conv_lhs => rw [← List.dropLast_append_getLast hne, ← List.append_assoc, ← hsplit]
    simp
  rw [hwhole, List.drop_left, List.take_left' (length_pack32 ..)]

/-- Garbage without an early match and the preamble: the header stage begins on the preamble's last byte. -/
theorem feedSeq_garbage_preamble {s : State} {garbage : List Byte} (hs : s.seeks)
    (hearly : noEarlyMatch s.cfg (s.window ++ garbage)) :
    ∃ t, feedSeq (garbage ++ pack32 s.cfg.endian s.cfg.preamble) s = .next (t, []) ∧ t.state = .readingHeader ∧
      t.cursor = 0 ∧ t.unescaping = false ∧ t.cfg = s.cfg := by
  have hno := not_infix_of_noEarlyMatch hearly
  have hlength : (pack32 s.cfg.endian s.cfg.preamble).length = 4 := length_pack32 ..
  have hne : pack32 s.cfg.endian s.cfg.preamble ≠ [] := List.ne_nil_of_length_pos (by omega)
  have hlast := List.dropLast_append_getLast hne
  generalize hp : pack32 s.cfg.endian s.cfg.preamble = p at *
  rw [List.append_assoc] at hno
  obtain ⟨v, hseq, hv, hvcfg, hsuffix, hvlength⟩ := feedSeq_without_preamble (garbage ++ p.dropLast) hs (hp ▸ hno)
  have hwindow : v.window = p.dropLast := by
    have hp3 : p.dropLast <:+ s.window ++ (garbage ++ p.dropLast) :=
      (List.suffix_append garbage _).trans (List.suffix_append s.window _)
    have h3 : v.window.length = p.dropLast.length := by
      simp only [hvlength, List.length_append, List.length_dropLast, hlength]
      omega
    exact (List.suffix_of_suffix_length_le hsuffix hp3 h3.le).eq_of_length h3
  have hmatch : v.completesPreamble (p.getLast hne) := by
    rw [State.completesPreamble_iff_window, hwindow, hvcfg, hp, hlast]
  have hfeed := feedByte_seeks hv (p.getLast hne)
  rw [seekStep_of_completes hmatch] at hfeed
  obtain ⟨-, hu, -⟩ := hv
  have hwhole := feedSeq_append_next_iff.mpr ⟨v, [], [], hseq, feedSeq_singleton hfeed, rfl⟩
  rw [List.append_assoc, hlast] at hwhole
  exact ⟨_, hwhole, rfl, rfl, hu, hvcfg⟩

/-! ### What the receiver has of a frame -/

/-- The bytes below `cursor`: in a reading stage the logical bytes of the content so far. -/
abbrev State.content (s : State) : List Byte := s.buf.readN 0 s.cursor

theorem State.content_counted (s : State) (d : Byte) : (s.counted d).content = s.content ++ [d] := by
  have h := Memory.readN_write_concat s.buf 0 s.cursor d
  rwa [Nat.zero_add] at h

theorem State.content_marked (s : State) (d : Byte) : (s.marked d).content = s.content :=
  Memory.readN_congr fun _ _ hx => Memory.read_write_other s.buf d (Nat.ne_of_lt (by simpa using hx))

/-- The next `n` logical bytes complete no stage: the header lacks more than `n`, or the body does. -/
def State.openFor (s : State) (n : Nat) : Prop :=
  s.state = .readingHeader ∧ s.cursor + n ≤ 4 ∨
  s.state = .readingBody ∧ 5 ≤ s.cursor ∧ s.cursor + n ≤ 5 + s.rxLength + 3 ∧ s.rxLength ≤ s.cfg.maxLen.toNat

theorem State.openFor.cursor_lt_cap {s : State} {n : Nat} (h : s.openFor n) : s.cursor < s.cfg.cap := by
  have hcap := s.cfg.cap_eq
  rcases h with ⟨-, hroom⟩ | ⟨-, -, hroom, hlen⟩ <;> omega

theorem State.openFor.reading {s : State} {n : Nat} (h : s.openFor n) : s.state ≠ .seekingPreamble := by
  rcases h with ⟨hst, -⟩ | ⟨hst, -⟩ <;> simp [hst]

theorem State.openFor.marked {s : State} {n : Nat} (h : s.openFor n) (d : Byte) : (s.marked d).openFor n := by
  rcases h with h | ⟨hst, hlow, hroom, hlen⟩
  · exact .inl h
  · have hN : (s.marked d).rxLength = s.rxLength := (s.agreeBelow_counted d).rxLength_eq (by omega)
    exact .inr ⟨hst, hlow, hN ▸ hroom, hN ▸ hlen⟩

/-- A logical byte that completes no stage is stored and counted. -/
theorem feedStep_of_openFor {s : State} {d : Byte} {n : Nat} (h : s.openFor (n + 1))
    (hd : ¬(s.unescaping = false ∧ d = Config.esc)) :
    feedStep d s = { s.counted d with event := some .evStore, result := .feed none } ∧ (feedStep d s).openFor n := by
  rcases h with ⟨hst, hroom⟩ | ⟨hst, hlow, hroom, hlen⟩
  · rw [feedStep_header hst]
    rcases headerStep_cases d s with ⟨hu, hesc, -⟩ | ⟨-, -, hstep⟩ | ⟨-, hlast, -⟩
    · exact absurd ⟨hu, hesc⟩ hd
    · exact ⟨hstep, hstep ▸ .inl ⟨hst, show s.cursor + 1 + n ≤ 4 by omega⟩⟩
    · omega
  · have hN : (s.counted d).rxLength = s.rxLength := (s.agreeBelow_counted d).rxLength_eq (by omega)
    rw [feedStep_body hst]
    rcases bodyStep_cases d s with ⟨hu, hesc, -⟩ | ⟨-, -, hstep⟩ | ⟨-, hlast, -⟩
    · exact absurd ⟨hu, hesc⟩ hd
    · exact ⟨hstep, hstep ▸ .inr ⟨hst, show 5 ≤ s.cursor + 1 by omega,
        show s.cursor + 1 + n ≤ 5 + (s.counted d).rxLength + 3 by omega, hN.trans_le hlen⟩⟩
    · omega

/-! ### One escaped byte -/

/-- The receiver that waits for `b` itself: after the escape marker where `b` is escaped. -/
def State.awaiting (s : State) (b : Byte) : State := if reserved b then s.marked Config.esc else s

theorem State.awaiting_cases (s : State) (b : Byte) :
    (s.awaiting b = s.marked Config.esc ∧ escapeByte b = [Config.esc, b]) ∨
    (b ≠ Config.esc ∧ s.awaiting b = s ∧ escapeByte b = [b]) := by
  unfold State.awaiting
  rcases escapeByte_cases b with ⟨rfl, h⟩ | ⟨rfl, h⟩ | ⟨hmarker, hesc, h⟩
  · exact .inl ⟨rfl, h⟩
  · exact .inl ⟨rfl, h⟩
  · exact .inr ⟨hesc, by rw [reserved_eq_false hmarker hesc]; rfl, h⟩

/-- What waiting for `b` leaves as it was; and `b` is then no marker. -/
theorem State.awaiting_spec (s : State) (b : Byte) :
    (s.awaiting b).state = s.state ∧ (s.awaiting b).cursor = s.cursor ∧ (s.awaiting b).cfg = s.cfg ∧
    (s.awaiting b).content = s.content ∧ ¬((s.awaiting b).unescaping = false ∧ b = Config.esc) := by
  rcases s.awaiting_cases b with ⟨h, -⟩ | ⟨hesc, h, -⟩
  · rw [h]
    exact ⟨rfl, rfl, rfl, s.content_marked _, by simp⟩
  · rw [h]
    exact ⟨rfl, rfl, rfl, rfl, fun hd => hesc hd.2⟩

theorem State.openFor.awaiting {s : State} {n : Nat} (h : s.openFor n) (b : Byte) : (s.awaiting b).openFor n := by
  rcases s.awaiting_cases b with ⟨hm, -⟩ | ⟨-, hs, -⟩
  · rw [hm]
    exact h.marked _
  · rwa [hs]

theorem dropLast_escapeByte_append (b : Byte) : (escapeByte b).dropLast ++ [b] = escapeByte b := by
  rcases escapeByte_cases b with ⟨rfl, h⟩ | ⟨rfl, h⟩ | ⟨-, -, h⟩ <;> rw [h] <;> rfl

/-- The escaped form of `b` is a feed of the logical byte `b`, of which all but the last raw byte leave the receiver
waiting for it (R110). -/
theorem feedSeq_escapeByte {s : State} (b : Byte) (hst : s.state ≠ .seekingPreamble) (hcap : s.cursor < s.cfg.cap)
    (hu : s.unescaping = false) :
    feedSeq (escapeByte b).dropLast s = .next (s.awaiting b, []) ∧
    feedSeq (escapeByte b) s =
      .next (feedStep b (s.awaiting b), frameOf (feedStep b (s.awaiting b)).result) := by
  obtain ⟨-, hcursor, hcfg, -⟩ := s.awaiting_spec b
  have hlast : feedByte b (s.awaiting b) = .next (feedStep b (s.awaiting b)) :=
    feedByte_of_lt (by rw [hcursor, hcfg]; exact hcap)
  have hwait : feedSeq (escapeByte b).dropLast s = .next (s.awaiting b, []) := by
    rcases s.awaiting_cases b with ⟨h, hraw⟩ | ⟨-, h, hraw⟩ <;> rw [h, hraw]
    · exact feedSeq_singleton (by rw [feedByte_of_lt hcap, feedStep_marker hst hu])
    · rfl
  refine ⟨hwait, ?_⟩
  conv_lhs => rw [← dropLast_escapeByte_append b]
  exact feedSeq_append_next_iff.mpr ⟨_, _, _, hwait, feedSeq_singleton hlast, rfl⟩

/-- Escaped bytes that complete no stage become content. -/
theorem feedSeq_escapeBytes_of_openFor (bytes : List Byte) {s : State} (h : s.openFor bytes.length)
    (hu : s.unescaping = false) :
    ∃ t, feedSeq (escapeBytes bytes) s = .next (t, []) ∧ t.state = s.state ∧ t.unescaping = false ∧ t.cfg = s.cfg ∧
      t.cursor = s.cursor + bytes.length ∧ t.content = s.content ++ bytes ∧ t.openFor 0 := by
  induction bytes generalizing s with
  | nil => exact ⟨s, rfl, rfl, hu, rfl, rfl, (List.append_nil _).symm, h⟩
  | cons b bytes ih =>
    obtain ⟨hst, hcursor, hcfg, hcontent, hd⟩ := s.awaiting_spec b
    obtain ⟨hstep, hopen⟩ := feedStep_of_openFor (h.awaiting b) hd
    obtain ⟨-, hfeed⟩ := feedSeq_escapeByte b h.reading h.cursor_lt_cap hu
    have hgrown : (feedStep b (s.awaiting b)).content = s.content ++ [b] := by
      rw [hstep, ← hcontent]
      exact State.content_counted _ b
    obtain ⟨t, hseq, htst, htu, htcfg, htcursor, htcontent, htopen⟩ := ih hopen (by rw [hstep])
    refine ⟨t, ?_, ?_, htu, ?_, ?_, ?_, htopen⟩
    · rw [escapeBytes_cons]
      exact feedSeq_append_next_iff.mpr ⟨_, _, _, hfeed, hseq, by rw [hstep]; rfl⟩
    · rw [htst, hstep]
      exact hst
    · rw [htcfg, hstep]
      exact hcfg
    · rw [htcursor, hstep, List.length_cons]
      show (s.awaiting b).cursor + 1 + bytes.length = _
      omega
    · rw [htcontent, hgrown, List.append_assoc, List.singleton_append]

/-- Escaped bytes of which only the last may complete a stage: before it the receiver waits for it, with the others as
content. -/
theorem feedSeq_escapeBytes_concat (bytes : List Byte) (d : Byte) {s : State} (h : s.openFor bytes.length)
    (hu : s.unescaping = false) :
    ∃ t, feedSeq (escapeBytes (bytes ++ [d])).dropLast s = .next (t, []) ∧
      feedSeq (escapeBytes (bytes ++ [d])) s = .next (feedStep d t, frameOf (feedStep d t).result) ∧
      t.state = s.state ∧ t.cfg = s.cfg ∧ t.content = s.content ++ bytes ∧
      ¬(t.unescaping = false ∧ d = Config.esc) := by
  obtain ⟨v, hseq, hvst, hvu, hvcfg, -, hvcontent, hvopen⟩ := feedSeq_escapeBytes_of_openFor bytes h hu
  obtain ⟨hst, -, hcfg, hcontent, hd⟩ := v.awaiting_spec d
  obtain ⟨hwait, hfeed⟩ := feedSeq_escapeByte d hvopen.reading hvopen.cursor_lt_cap hvu
  have hne : escapeByte d ≠ [] := by
    rw [← dropLast_escapeByte_append]
    simp
  have hraw : escapeBytes (bytes ++ [d]) = escapeBytes bytes ++ escapeByte d := by
    rw [escapeBytes_append, escapeBytes_singleton]
  refine ⟨v.awaiting d, ?_, ?_, hst.trans hvst, hcfg.trans hvcfg, hcontent.trans hvcontent, hd⟩
  · rw [hraw, List.dropLast_append_of_ne_nil hne]
    exact feedSeq_append_next_iff.mpr ⟨_, _, _, hseq, hwait, rfl⟩
  · rw [hraw]
    exact feedSeq_append_next_iff.mpr ⟨_, _, _, hseq, hfeed, rfl⟩

/-! ### The fields of a received frame -/

theorem State.rd16_of_readN {s : State} {a : Nat} {v : Half} (h : s.buf.readN a 2 = pack16 s.cfg.endian v) :
    s.rd16 a = v := unpack16_of_pack16 h.symm

/-- The header in the buffer reads as its fields, and its checksum is right (R64, R68). -/
theorem State.rx_of_header {s : State} {flags n : Half} (h : s.buf.readN 0 5 = headerPack s.cfg.endian flags n) :
    s.rxFlags = flags ∧ s.rxLength = n.toNat ∧ headerChecksumOk s = true := by
  obtain ⟨b0, b1, b2, b3, hcovered⟩ := exists_covered_bytes s.cfg.endian flags n
  rw [headerPack_of_bytes hcovered] at h
  obtain ⟨h0, h1, h2, h3, h4⟩ : s.buf.read 0 = b0 ∧ s.buf.read 1 = b1 ∧ s.buf.read 2 = b2 ∧ s.buf.read 3 = b3 ∧
      s.buf.read 4 = headerChecksum b0 b1 b2 b3 := by
    simpa [Memory.readN, List.range_succ] using h
  obtain ⟨hflags, hn⟩ : pack16 s.cfg.endian flags = [b0, b1] ∧ pack16 s.cfg.endian n = [b2, b3] :=
    List.append_inj (hcovered.trans (List.singleton_append ..)) (by simp)
  refine ⟨State.rd16_of_readN ?_, congrArg BitVec.toNat (State.rd16_of_readN ?_), ?_⟩
  · rw [hflags, ← h0, ← h1]
    rfl
  · rw [hn, ← h2, ← h3]
    rfl
  · simp [headerChecksumOk, h0, h1, h2, h3, h4]

/-- The content of a frame in the buffer reads as that frame, and the frame check holds (R68, R134). -/
theorem State.rx_of_frameContent {s : State} {flags : Half} {payload : List Byte}
    (h : s.content = frameContent s.cfg.endian flags payload) (hlen : payload.length < 65536) :
    s.cursor = 5 + s.rxLength + 4 ∧ s.rxFlags = flags ∧ s.rxPayload = payload ∧ bodyCheck s = true := by
  have hcursor : s.cursor = 5 + payload.length + 4 := by
    have hlength := congrArg List.length h
    rw [Memory.length_readN, length_frameContent] at hlength
    omega
  rw [State.content, hcursor, Memory.readN_add, frameContent] at h
  obtain ⟨hcovered, hcrc⟩ := List.append_inj h (by simp [length_headerPack])
  rw [Nat.zero_add] at hcrc
  obtain ⟨hheader, hpayload⟩ := List.append_inj ((Memory.readN_add ..).symm.trans hcovered) (by simp [length_headerPack])
  obtain ⟨hflags, hN, -⟩ := State.rx_of_header hheader
  replace hN : s.rxLength = payload.length := hN.trans (Nat.mod_eq_of_lt hlen)
  have hrxCrc : s.rxCrc = frameChecksum (s.buf.readN 0 (5 + payload.length)) := by
    rw [State.rxCrc, hN, hcovered]
    exact unpack32_of_pack32 hcrc.symm
  refine ⟨by rw [hN, hcursor], hflags, ?_, ?_⟩
  · rw [State.rxPayload, hN]
    exact hpayload
  · rw [bodyCheck, hrxCrc, hN]
    exact beq_self_eq_true _

/-! ### The two stages of a frame -/

/-- The fifth byte of a header of a legal length opens the body stage (R130). -/
theorem feedStep_completes_header {s : State} {d : Byte} {flags n : Half} (hst : s.state = .readingHeader)
    (hd : ¬(s.unescaping = false ∧ d = Config.esc)) (hcontent : s.content ++ [d] = headerPack s.cfg.endian flags n)
    (hn : n.toNat ≤ s.cfg.maxLen.toNat) :
    feedStep d s = { s.counted d with state := .readingBody, event := some .evHdrOk, result := .feed none } := by
  have hcursor : s.cursor = 4 := by
    have hlength := congrArg List.length hcontent
    rw [List.length_append, Memory.length_readN, length_headerPack] at hlength
    exact Nat.succ.inj hlength
  have hheader : (s.counted d).buf.readN 0 5 = headerPack s.cfg.endian flags n := by
    rw [← hcontent, ← State.content_counted, State.content]
    show _ = (s.counted d).buf.readN 0 (s.cursor + 1)
    rw [hcursor]
  obtain ⟨-, hN, hck⟩ := State.rx_of_header (s := s.counted d) hheader
  have hlen : headerLengthOk (s.counted d) = true := (headerLengthOk_iff _).mpr (hN ▸ hn)
  rw [feedStep_header hst]
  rcases headerStep_cases d s with ⟨hu, hesc, -⟩ | ⟨-, hmore, -⟩ | ⟨-, -, h⟩
  · exact absurd ⟨hu, hesc⟩ hd
  · exact absurd hcursor hmore
  · rw [h, headerDone, if_pos hck, if_pos hlen]
    rfl

/-- The last byte of a frame's content returns the frame (R135, R137). -/
theorem feedStep_completes_frame {s : State} {d : Byte} {flags : Half} {payload : List Byte}
    (hst : s.state = .readingBody) (hd : ¬(s.unescaping = false ∧ d = Config.esc))
    (hcontent : s.content ++ [d] = frameContent s.cfg.endian flags payload) (hlen : payload.length < 65536) :
    feedStep d s = { s.counted d with
      state := .seekingPreamble, cursor := 0, event := some .evFrameOk,
      result := .feed (some { flags := flags, payload := payload, damaged := false }) } := by
  obtain ⟨hcursor, hflags, hpayload, hck⟩ :=
    State.rx_of_frameContent (s := s.counted d) ((s.content_counted d).trans hcontent) hlen
  rw [feedStep_body hst]
  rcases bodyStep_cases d s with ⟨hu, hesc, -⟩ | ⟨-, hmore, -⟩ | ⟨-, -, h⟩
  · exact absurd ⟨hu, hesc⟩ hd
  · exact absurd hcursor hmore
  · rw [h, hck, hflags, hpayload]
    rfl

/-- The escaped header leaves the receiver in the body stage with the header as content. -/
theorem feedSeq_header {s : State} {flags n : Half} (hst : s.state = .readingHeader) (hcursor : s.cursor = 0)
    (hu : s.unescaping = false) (hn : n.toNat ≤ s.cfg.maxLen.toNat) :
    ∃ t, feedSeq (escapeBytes (headerPack s.cfg.endian flags n)) s = .next (t, []) ∧ t.state = .readingBody ∧
      t.unescaping = false ∧ t.cfg = s.cfg ∧ t.content = headerPack s.cfg.endian flags n := by
  obtain ⟨b0, b1, b2, b3, hcovered⟩ := exists_covered_bytes s.cfg.endian flags n
  have hpack : headerPack s.cfg.endian flags n = [b0, b1, b2, b3] ++ [headerChecksum b0 b1 b2 b3] :=
    headerPack_of_bytes hcovered
  obtain ⟨t, -, hseq, htst, htcfg, htcontent, hd⟩ :=
    feedSeq_escapeBytes_concat [b0, b1, b2, b3] (headerChecksum b0 b1 b2 b3) (s := s)
      (.inl ⟨hst, by simp [hcursor]⟩) hu
  have hempty : s.content = [] := by rw [State.content, hcursor]; rfl
  have hwhole : t.content ++ [headerChecksum b0 b1 b2 b3] = headerPack s.cfg.endian flags n := by
    rw [htcontent, hempty, hpack, List.nil_append]
  have hstep := feedStep_completes_header (htst.trans hst) hd (htcfg ▸ hwhole) (htcfg ▸ hn)
  rw [hstep, ← hpack] at hseq
  exact ⟨_, hseq, rfl, rfl, htcfg, (t.content_counted _).trans hwhole⟩

/-- Fed the bytes of `wire`, the receiver returns `f` on the last of them and nothing before, and is fresh again. -/
def State.returnsOnLast (s : State) (wire : List Byte) (f : Frame) : Prop :=
  ∃ u v, feedSeq wire s = .next (u, [f]) ∧ feedSeq wire.dropLast s = .next (v, []) ∧ u.fresh ∧ u.cfg = s.cfg ∧
    u.result = .feed (some f)

/-- Bytes that return nothing may come first. -/
theorem State.returnsOnLast.prepend {s t : State} {before wire : List Byte} {f : Frame}
    (h : t.returnsOnLast wire f) (hbefore : feedSeq before s = .next (t, [])) (hcfg : t.cfg = s.cfg) :
    s.returnsOnLast (before ++ wire) f := by
  obtain ⟨u, v, hu, hv, hfresh, hucfg, hresult⟩ := h
  have hne : wire ≠ [] := by
    rintro rfl
    cases hu
  refine ⟨u, v, feedSeq_append_next_iff.mpr ⟨t, _, _, hbefore, hu, rfl⟩, ?_, hfresh, hucfg.trans hcfg, hresult⟩
  rw [List.dropLast_append_of_ne_nil hne]
  exact feedSeq_append_next_iff.mpr ⟨t, _, _, hbefore, hv, rfl⟩

/-- The escaped payload and CRC32 after the header: the frame on the last byte. -/
theorem returnsOnLast_body {s : State} {flags : Half} {payload : List Byte} (hst : s.state = .readingBody)
    (hu : s.unescaping = false) (hlen : payload.length ≤ s.cfg.maxLen.toNat)
    (hheader : s.content = headerPack s.cfg.endian flags (BitVec.ofNat 16 payload.length)) :
    s.returnsOnLast
      (escapeBytes (payload ++ pack32 s.cfg.endian (frameChecksum (s.content ++ payload))))
      { flags := flags, payload := payload, damaged := false } := by
  have hlen16 : payload.length < 65536 := hlen.trans_lt s.cfg.maxLen.isLt
  have hcursor : s.cursor = 5 := by
    have hlength := congrArg List.length hheader
    rwa [Memory.length_readN, length_headerPack] at hlength
  have hN : s.rxLength = payload.length := by
    rw [State.content, hcursor] at hheader
    obtain ⟨-, h, -⟩ := State.rx_of_header hheader
    exact h.trans (Nat.mod_eq_of_lt hlen16)
  obtain ⟨bytes, d, hsplit⟩ :
      ∃ bytes d, payload ++ pack32 s.cfg.endian (frameChecksum (s.content ++ payload)) = bytes ++ [d] :=
    ⟨_, _, (List.dropLast_append_getLast (List.ne_nil_of_length_pos (by simp))).symm⟩
  have hcount : bytes.length = payload.length + 3 := by
    have hlength := congrArg List.length hsplit
    simp only [List.length_append, length_pack32, List.length_singleton] at hlength
    omega
  obtain ⟨t, hwait, hseq, htst, htcfg, htcontent, hd⟩ :=
    feedSeq_escapeBytes_concat bytes d (s := s) (.inr ⟨hst, hcursor.ge, by omega, by omega⟩) hu
  have hwhole : t.content ++ [d] = frameContent t.cfg.endian flags payload := by
    rw [htcontent, htcfg, frameContent, ← hheader, List.append_assoc, ← hsplit, List.append_assoc]
  have hstep := feedStep_completes_frame (htst.trans hst) hd hwhole hlen16
  rw [hstep] at hseq
  rw [hsplit]
  exact ⟨_, t, hseq, hwait, ⟨rfl, rfl, rfl⟩, htcfg, rfl⟩

/-- Garbage without an early match, then the bytes of a frame: exactly that frame, on its last byte (R142, R143). -/
theorem returnsOnLast_garbage_frameWire {s : State} {garbage : List Byte} (flags : Half) {payload : List Byte}
    (hs : s.seeks) (hlen : payload.length ≤ s.cfg.maxLen.toNat) (hearly : noEarlyMatch s.cfg (s.window ++ garbage)) :
    s.returnsOnLast (garbage ++ frameWire s.cfg flags payload)
      { flags := flags, payload := payload, damaged := false } := by
  have hN : (BitVec.ofNat 16 payload.length).toNat = payload.length :=
    Nat.mod_eq_of_lt (hlen.trans_lt s.cfg.maxLen.isLt)
  obtain ⟨t, hpreamble, htst, htcursor, htu, htcfg⟩ := feedSeq_garbage_preamble hs hearly
  obtain ⟨b, hheader, hbst, hbu, hbcfg, hbcontent⟩ :=
    feedSeq_header (flags := flags) (n := BitVec.ofNat 16 payload.length) htst htcursor htu
      (by rw [hN, htcfg]; exact hlen)
  rw [← hbcfg] at hbcontent
  have hbody := returnsOnLast_body hbst hbu (by rw [hbcfg, htcfg]; exact hlen) hbcontent
  rw [hbcontent, hbcfg, htcfg] at hbody
  rw [htcfg] at hheader
  have hwire : garbage ++ frameWire s.cfg flags payload =
      (garbage ++ pack32 s.cfg.endian s.cfg.preamble) ++
        (escapeBytes (headerPack s.cfg.endian flags (BitVec.ofNat 16 payload.length)) ++
          escapeBytes (payload ++ pack32 s.cfg.endian
            (frameChecksum (headerPack s.cfg.endian flags (BitVec.ofNat 16 payload.length) ++ payload)))) := by
    simp only [frameWire, frameContent, escapeBytes_append, List.append_assoc]
  rw [hwire]
  exact (hbody.prepend hheader hbcfg).prepend hpreamble htcfg

/-- Settles O56: no garbage; the last three stored bytes are the window, which is empty where `cursor` is 0. -/
theorem roundTrip : Obligations.RoundTrip := by
  refine ⟨fun s flags payload hs hst hlen hearly => ?_, fun s flags payload hs hlen => ?_⟩
  · obtain ⟨u, v, hu, hv, hfresh, -⟩ :=
      returnsOnLast_garbage_frameWire (garbage := []) flags (hs.seeks hst) hlen (by rwa [List.append_nil])
    exact ⟨u, v, hu, hv, hfresh⟩
  · obtain ⟨u, v, hu, hv, hfresh, hcfg, hresult⟩ :=
      returnsOnLast_garbage_frameWire (garbage := []) flags hs.seeks hlen (by rw [hs.window_eq]; exact nofun)
    exact ⟨_, _, u, v, exec_encode .., encodeFrame_eq_encoded_iff.mpr ⟨hlen, rfl⟩, hu, hv, hresult, hfresh, hcfg⟩

/-- Settles O57: the window of a fresh receiver is empty, so that only the garbage counts; the limit is V4.6 evaluated. -/
theorem resynchronisationAfterGarbage : Obligations.ResynchronisationAfterGarbage := by
  refine ⟨⟨_, rfl⟩, fun s garbage flags payload hs hlen hearly => ?_⟩
  obtain ⟨u, v, hu, -, hfresh, -⟩ :=
    returnsOnLast_garbage_frameWire flags hs.seeks hlen (by rwa [hs.window_eq, List.nil_append])
  exact ⟨u, hu, hfresh⟩

end Sys2Proof.Machine
end

section
/-! PROOF. The statements of 42_framesync.md on one feed, stage by stage (R122 to R138), and on what every row keeps: all eight
operations complete (R120), the model's own fields are not read (R139), and chunks do not matter (R140). -/

namespace Sys2Proof.Machine

/-! ### The seeking stage -/

/-- The slide copies the last four bytes to the front (R126); `seekStep_read` says what it leaves. -/
theorem seekStep_slide_front {s : State} {d : Byte} (hno : ¬s.completesPreamble d) (hfull : s.cursor + 1 = s.cfg.cap)
    {x : Nat} (hx : x < 4) :
    (seekStep d s).buf.read x = if x = 3 then d else s.buf.read (s.cfg.cap - 4 + x) := by
  have hcap := s.cfg.cap_eq
  rw [seekStep_of_full hno hfull]
  show ((s.buf.write s.cursor d).writeN 0 _).read x = _
  rw [Memory.read_writeN, if_pos ⟨Nat.zero_le x, by simpa using hx⟩, List.getD_eq_getElem _ _ (by simpa using hx),
    Memory.getElem_readN, Nat.sub_zero, Memory.read_write]
  exact if_congr (by omega) rfl rfl

/-- Settles O22: the three cases of `SEEK_STEP`. -/
theorem feedInSeekingStage : Obligations.FeedInSeekingStage := by
  intro s d hst hcap
  obtain ⟨hresult, hu⟩ := seekStep_answer d s
  have houtside : s.sameOutside (seekStep d s) := feedStep_seeking hst ▸ feedStep_sameOutside d s
  refine ⟨seekStep d s, feedByte_seeking hst hcap, hresult, hu, houtside, ?_⟩
  dsimp only
  rw [← State.completesPreamble_iff]
  refine ⟨fun hm => ?matched, fun hno hfull => ?slide, fun hno hroom => ?store⟩
  case matched =>
    rw [seekStep_of_completes hm]
    exact ⟨rfl, rfl, rfl, State.storedOnly_of_buf rfl⟩
  case slide =>
    have hmin := s.cfg.cap_eq
    have hlast : s.cfg.cap - 1 = s.cursor := by omega
    obtain ⟨hstored, hother⟩ := seekStep_read d s
    have hfront := fun x => @seekStep_slide_front s d hno hfull x
    have h1 : s.cfg.cap - 4 + 1 = s.cfg.cap - 3 := by omega
    have h2 : s.cfg.cap - 4 + 2 = s.cfg.cap - 2 := by omega
    refine ⟨?_, ?_, ?_, hfront 0 (by omega), h1 ▸ hfront 1 (by omega), h2 ▸ hfront 2 (by omega), hfront 3 (by omega),
      hlast ▸ hstored, fun x h4 hx => hother x (hlast ▸ hx) (.inl h4)⟩
    · rw [seekStep_of_full hno hfull]
      exact hst
    · rw [seekStep_of_full hno hfull]
    · rw [seekStep_of_full hno hfull]
  case store =>
    rw [seekStep_of_room hno hroom]
    exact ⟨hst, rfl, rfl, State.storedOnly_of_buf rfl⟩

/-! ### The header stage -/

/-- The header check at the fifth byte `d`, over the bytes stored before it (R129). -/
theorem headerCheck_counted {s : State} (h4 : s.cursor = 4) (d : Byte) :
    (headerChecksumOk (s.counted d) = true ↔
      d = s.buf.read 0 ^^^ s.buf.read 1 ^^^ s.buf.read 2 ^^^ s.buf.read 3) ∧
    (headerLengthOk (s.counted d) = true ↔
      (unpack16 s.cfg.endian (s.buf.read 2) (s.buf.read 3)).toNat ≤ s.cfg.maxLen.toNat) := by
  have hN : (s.counted d).rxLength = s.rxLength := (s.agreeBelow_counted d).rxLength_eq h4.ge
  rw [headerChecksumOk_iff, headerLengthOk_iff, hN]
  simp [h4, Memory.read_write, State.rxLength, State.rd16]

/-- Settles O23: a marker, a byte counted, or the fifth byte with the three outcomes of the header check. -/
theorem feedInHeaderStage : Obligations.FeedInHeaderStage := by
  intro s d hst hcap
  refine ⟨headerStep d s, (feedByte_of_lt hcap).trans (by rw [feedStep_header hst]), ?_⟩
  rcases headerStep_cases d s with ⟨hu, hesc, h⟩ | ⟨hd, hmore, h⟩ | ⟨hd, h4, h⟩
  · rw [h]
    exact ⟨rfl, ⟨rfl, rfl⟩, State.storedOnly_of_buf rfl, fun _ => ⟨hst, rfl, rfl, rfl⟩, absurd ⟨hu, hesc⟩⟩
  · rw [h]
    exact ⟨rfl, ⟨rfl, rfl⟩, State.storedOnly_of_buf rfl, fun hm => absurd hm hd, fun _ =>
      ⟨rfl, fun _ => ⟨hst, rfl, rfl⟩, fun h4 => absurd h4 hmore⟩⟩
  · obtain ⟨hsum, hlen⟩ := headerCheck_counted h4 d
    obtain ⟨hcfg, hinput, hbuf, hu⟩ := headerDone_same (s.counted d)
    rw [h]
    refine ⟨rfl, ⟨hcfg, hinput⟩, State.storedOnly_of_buf hbuf, fun hm => absurd hm hd, fun _ =>
      ⟨hu, fun hmore => absurd h4 hmore, fun _ => ?_⟩⟩
    dsimp only
    rw [← hsum, ← hlen]
    rcases headerDone_cases (s.counted d) with ⟨hck, hle, hdone⟩ | ⟨hck, hle, hdone⟩ | ⟨hck, hdone⟩ <;> rw [hdone]
    · exact ⟨fun _ => ⟨rfl, congrArg (· + 1) h4, rfl⟩, absurd hck, fun ⟨_, hno⟩ => absurd hle hno⟩
    · exact ⟨fun ⟨_, hyes⟩ => absurd hyes (by simp [hle]), absurd hck, fun _ => ⟨rfl, rfl, rfl⟩⟩
    · exact ⟨fun ⟨hyes, _⟩ => absurd hyes (by simp [hck]), fun _ => ⟨rfl, rfl, rfl⟩,
        fun ⟨hyes, _⟩ => absurd hyes (by simp [hck])⟩

/-! ### The body stage -/

theorem bodyCheck_iff (s : State) :
    bodyCheck s = true ↔ frameChecksum (s.buf.readN 0 (5 + s.rxLength)) = s.rxCrc := beq_iff_eq

theorem State.rxCrc_eq (s : State) :
    s.rxCrc = unpack32 s.cfg.endian (s.buf.read (5 + s.rxLength)) (s.buf.read (6 + s.rxLength))
      (s.buf.read (7 + s.rxLength)) (s.buf.read (8 + s.rxLength)) := by
  have h6 : 5 + s.rxLength + 1 = 6 + s.rxLength := by omega
  have h7 : 5 + s.rxLength + 2 = 7 + s.rxLength := by omega
  have h8 : 5 + s.rxLength + 3 = 8 + s.rxLength := by omega
  rw [State.rxCrc, State.rd32, Config.lenHeader, h6, h7, h8]

/-- The frame check at the last byte `d`, over the bytes stored before it (R134). -/
theorem bodyCheck_counted {s : State} {d : Byte} (hend : s.cursor + 1 = 5 + s.rxLength + 4) :
    bodyCheck (s.counted d) = true ↔
      frameChecksum (s.buf.readN 0 (5 + s.rxLength)) =
        unpack32 s.cfg.endian (s.buf.read (5 + s.rxLength)) (s.buf.read (6 + s.rxLength))
          (s.buf.read (7 + s.rxLength)) d := by
  have hN : (s.counted d).rxLength = s.rxLength := (s.agreeBelow_counted d).rxLength_eq (by omega)
  obtain ⟨-, hread⟩ := s.agreeBelow_counted d
  have hcovered : (s.counted d).buf.readN 0 (5 + s.rxLength) = s.buf.readN 0 (5 + s.rxLength) :=
    Memory.readN_congr fun x _ hx => hread x (by omega)
  have hlast : (s.counted d).buf.read (8 + s.rxLength) = d := by
    have hcursor : 8 + s.rxLength = s.cursor := by omega
    exact hcursor ▸ Memory.read_write_same ..
  rw [bodyCheck_iff, State.rxCrc_eq, hN, hcovered, hlast, hread _ (by omega), hread _ (by omega), hread _ (by omega)]

/-- Settles O24: a marker, a byte counted, or the last byte with the outcomes of the frame check. The header bytes are
below `cursor`, so that the store leaves the declared length. -/
theorem feedInBodyStage : Obligations.FeedInBodyStage := by
  intro s d hs hst
  have hexec : exec (.feed d) s = .next (bodyStep d s) := (feedByte_of_inv d hs).trans (by rw [feedStep_body hst])
  obtain ⟨-, -, -, -, hbody, -⟩ := hs
  obtain ⟨-, -, hlow, -⟩ := hbody hst
  have hagree := s.agreeBelow_counted d
  have hN : (s.counted d).rxLength = s.rxLength := hagree.rxLength_eq (by omega)
  refine ⟨bodyStep d s, hexec, ?_⟩
  dsimp only
  change _ ∧ _ ∧ _ ∧ (_ → s.cursor + 1 ≠ 5 + s.rxLength + 4 → _) ∧ (_ → s.cursor + 1 = 5 + s.rxLength + 4 → _)
  rcases bodyStep_cases d s with ⟨hu, hesc, h⟩ | ⟨hd, hmore, h⟩ | ⟨hd, hend, h⟩
  · rw [h]
    exact ⟨⟨rfl, rfl⟩, State.storedOnly_of_buf rfl, fun _ => ⟨hst, rfl, rfl, rfl, rfl⟩, absurd ⟨hu, hesc⟩,
      absurd ⟨hu, hesc⟩⟩
  · rw [h]
    exact ⟨⟨rfl, rfl⟩, State.storedOnly_of_buf rfl, fun hm => absurd hm hd, fun _ _ => ⟨hst, rfl, rfl, rfl, rfl⟩,
      fun _ hend => absurd (hN ▸ hend) hmore⟩
  · rw [hN] at hend
    have hcheck := bodyCheck_counted (d := d) hend
    rw [h]
    refine ⟨⟨rfl, rfl⟩, State.storedOnly_of_buf rfl, fun hm => absurd hm hd, fun _ hmore => absurd hend hmore,
      fun _ _ => ⟨rfl, rfl, rfl, ?_⟩⟩
    have hflags : (s.counted d).rxFlags = s.rxFlags := hagree.rxFlags_eq (by omega)
    have hpayload : (s.counted d).rxPayload = s.rxPayload := hagree.rxPayload_eq (by omega)
    rw [hflags, hpayload]
    refine ⟨fun hgood => ?_, fun hbad => ?_⟩
    · rw [hcheck.mpr hgood]
      exact ⟨rfl, rfl⟩
    · have hfails : bodyCheck (s.counted d) = false := Bool.eq_false_iff.mpr (mt hcheck.mp hbad)
      rw [hfails]
      exact ⟨rfl, fun hlenient => by rw [hlenient]; rfl, fun hstrict => by rw [hstrict]; rfl⟩

/-! ### Where frames come from -/

theorem bodyResult_flags_damaged {ok lenient : Bool} {flags : Half} {payload : List Byte} {f : Frame}
    (h : bodyResult ok lenient flags payload = some f) : f.flags = flags ∧ (f.damaged = false ↔ ok = true) := by
  unfold bodyResult at h
  split_ifs at h with hok
  · cases h
    simp [hok]
  · cases h
    simp [hok]

/-- Only a completed body returns a frame (R135, R136). -/
theorem feedStep_frame {d : Byte} {s : State} {f : Frame} (h : (feedStep d s).result = .feed (some f)) :
    s.state = .readingBody ∧ s.cursor + 1 = 5 + (s.counted d).rxLength + 4 ∧
    ¬(s.unescaping = false ∧ d = Config.esc) ∧ (feedStep d s).fresh ∧ (feedStep d s).buf = (s.counted d).buf ∧
    bodyResult (bodyCheck (s.counted d)) s.cfg.lenient (s.counted d).rxFlags (s.counted d).rxPayload = some f := by
  cases hst : s.state with
  | seekingPreamble =>
    rw [feedStep_seeking hst, (seekStep_answer d s).1] at h
    cases h
  | readingHeader =>
    rw [feedStep_header hst] at h
    rcases headerStep_cases d s with ⟨-, -, hstep⟩ | ⟨-, -, hstep⟩ | ⟨-, -, hstep⟩ <;> rw [hstep] at h <;> cases h
  | readingBody =>
    rw [feedStep_body hst] at h ⊢
    rcases bodyStep_cases d s with ⟨-, -, hstep⟩ | ⟨-, -, hstep⟩ | ⟨hd, hend, hstep⟩ <;> rw [hstep] at h
    · cases h
    · cases h
    · rw [hstep]
      exact ⟨rfl, hend, hd, ⟨rfl, rfl, rfl⟩, rfl, Result.feed.inj h⟩

/-- Settles O40: the completed body's result, over the buffer it leaves. -/
theorem framesComeOnlyFromACompletedBody : Obligations.FramesComeOnlyFromACompletedBody := by
  intro s t d f hexec hresult
  obtain ⟨-, rfl⟩ := feedByte_next_iff.mp hexec
  obtain ⟨hst, hend, hd, hfresh, hbuf, hframe⟩ := feedStep_frame hresult
  obtain ⟨hflags, hdamaged⟩ := bodyResult_flags_damaged hframe
  obtain ⟨hpayload, hlenient⟩ := bodyResult_eq_some hframe
  rw [bodyCheck_iff, State.rxCrc_eq] at hdamaged
  rw [hbuf]
  exact ⟨hst, hend, hd, hflags, hpayload, hdamaged, hlenient, hfresh⟩

/-! ### Every row -/

/-- Settles O33: a feed completes by the invariants, the other operations always. -/
theorem everyRequestCompletes : Obligations.EveryRequestCompletes := by
  intro s i hs hi
  have hcompletes : ∃ t, exec i s = .next t := by
    cases i with
    | feed d => exact ⟨_, feedByte_of_inv d hs⟩
    | nop | encode | hck | crcUpd | crc32 | escEnc | escape => exact ⟨_, rfl⟩
    | _ => cases hi
  obtain ⟨t, ht⟩ := hcompletes
  exact ⟨t, ht, exec_inv hs ht⟩

/-- A row that is raw bytes is one feed, or a window of four begun in the seeking stage (R69, R70). -/
theorem exec_receive_cases {i : Instr} {s t : State} (hi : isReceiveRow i = true) (h : exec i s = .next t) :
    (∃ d, feedByte d s = .next t) ∨ s.state = .seekingPreamble ∧ ∃ p, feedSymbol (wordBytes p) s = .next t := by
  cases i with
  | feed d => exact .inl ⟨d, h⟩
  | raw d => exact .inl ⟨d, (exec_raw_next_iff.mp h).2⟩
  | escaped d => exact .inl ⟨d, (exec_escaped_next_iff.mp h).2⟩
  | escmark => exact .inl ⟨_, (exec_escmark_next_iff.mp h).2⟩
  | literal d => exact .inl ⟨d, (exec_literal_next_iff.mp h).2⟩
  | preamble p => exact .inr ((exec_preamble_next_iff.mp h).imp_right fun hp => ⟨p, hp⟩)
  | preambleRecLittle =>
    exact .inr ((exec_preamble_next_iff (p := recLittleImage).mp h).imp_right fun hp => ⟨_, hp⟩)
  | preambleRecBig => exact .inr ((exec_preamble_next_iff (p := recBigImage).mp h).imp_right fun hp => ⟨_, hp⟩)
  | _ => cases hi

theorem State.headerOpenFor.ne_body {s : State} {n : Nat} (h : s.headerOpenFor n) : s.state ≠ .readingBody := by
  rcases h with hst | ⟨hst, -⟩ <;> simp [hst]

/-- At most four feeds begun in the seeking stage complete no header, whatever the state. -/
theorem feedSeq_keeps_headerOpenFor {ds : List Byte} {s t : State} {frames : List Frame} (hlen : ds.length ≤ 4)
    (hs : s.headerOpenFor ds.length) (h : feedSeq ds s = .next (t, frames)) : t.headerOpenFor 0 := by
  induction ds generalizing s frames with
  | nil =>
    cases h
    exact hs
  | cons d ds ih =>
    have hlen' : ds.length ≤ 4 := Nat.le_of_succ_le hlen
    obtain ⟨v, more, hfeed, hrest, -⟩ := feedSeq_cons_next_iff.mp h
    obtain ⟨-, rfl⟩ := feedByte_next_iff.mp hfeed
    obtain ⟨-, hopen⟩ := feedStep_headerOpenFor d hlen' hs
    exact ih hlen' hopen hrest

theorem feedStep_stage_of_body {s : State} (d : Byte) (hst : s.state = .readingBody) :
    (feedStep d s).state ≠ .readingHeader := by
  rw [feedStep_body hst]
  rcases bodyStep_cases d s with ⟨-, -, h⟩ | ⟨-, -, h⟩ | ⟨-, -, h⟩ <;> simp [h, hst]

/-- Settles O39: a row that is no raw byte keeps the stage; from seeking, four feeds are too few for a header; from the body
stage, one feed stays in it or goes back to seeking. -/
theorem noOtherStageTransition : Obligations.NoOtherStageTransition := by
  intro i s t h
  cases hi : isReceiveRow i with
  | false =>
    obtain ⟨r, rfl⟩ := exec_answersOnly s hi t h
    simp only [State.respond_state]
    constructor <;> rintro ⟨hfrom, hto⟩ <;> simp [hfrom] at hto
  | true =>
    rcases exec_receive_cases hi h with ⟨d, hfeed⟩ | ⟨hseeking, p, hwindow⟩
    · obtain ⟨-, rfl⟩ := feedByte_next_iff.mp hfeed
      refine ⟨fun ⟨hfrom, hto⟩ => ?_, fun ⟨hfrom, hto⟩ => feedStep_stage_of_body d hfrom hto⟩
      obtain ⟨-, hopen⟩ := feedStep_headerOpenFor d (Nat.zero_le 4) (.inl hfrom)
      exact hopen.ne_body hto
    · obtain ⟨frames, hseq⟩ := feedSymbol_next_iff.mp hwindow
      have hopen : t.headerOpenFor 0 := feedSeq_keeps_headerOpenFor (by simp) (.inl hseeking) hseq
      exact ⟨fun ⟨_, hto⟩ => hopen.ne_body hto, fun ⟨hfrom, _⟩ => absurd (hseeking.symm.trans hfrom) nofun⟩

/-! ### The result port and the trace name -/

/-- `s` with another result and another trace name. -/
abbrev State.withPort (s : State) (r : Result) (e : Option Event) : State := { s with result := r, event := e }

theorem feedSymbol_set_port (d : Byte) (ds : List Byte) (s : State) (r : Result) (e : Option Event) :
    feedSymbol (d :: ds) (s.withPort r e) = feedSymbol (d :: ds) s := by
  simp only [feedSymbol, feedSeq, feedByte_set_port]

/-- A row that is raw bytes has the same outcome whatever the port and the trace name held. -/
theorem exec_receive_set_port {i : Instr} (hi : isReceiveRow i = true) (s : State) (r : Result) (e : Option Event) :
    exec i (s.withPort r e) = exec i s := by
  cases i with
  | feed d => exact feedByte_set_port d s r e
  | raw d => rw [exec_raw, exec_raw, feedByte_set_port]
  | escaped d => rw [exec_escaped, exec_escaped, feedByte_set_port]
  | escmark => rw [exec_escmark, exec_escmark, feedByte_set_port]
  | literal d => rw [exec_literal, exec_literal, feedByte_set_port]
  | preamble p => exact if_congr Iff.rfl (feedSymbol_set_port _ _ s r e) rfl
  | preambleRecLittle => exact if_congr Iff.rfl (feedSymbol_set_port _ _ s r e) rfl
  | preambleRecBig => exact if_congr Iff.rfl (feedSymbol_set_port _ _ s r e) rfl
  | _ => cases hi

/-- Both outcomes are of one kind; next states agree on the registers, the buffer and the result, and the reasons of a stop
are the same. -/
def sameOutcome (o o' : Host.Outcome State Fault Refusal) : Prop :=
  (∀ t, o = .next t → ∃ u, o' = .next u ∧ t.sameRegisters u ∧ u.result = t.result) ∧
  (∀ f, o = .fault f → o' = .fault f) ∧ (∀ x, o = .refused x → o' = .refused x)

theorem sameOutcome_refl (o : Host.Outcome State Fault Refusal) : sameOutcome o o :=
  ⟨fun t h => ⟨t, h, ⟨rfl, rfl, rfl, rfl, rfl, rfl⟩, rfl⟩, fun _ => id, fun _ => id⟩

theorem sameOutcome_next (s : State) (r : Result) (e : Option Event) (answer : Result) :
    sameOutcome (.next (s.respond answer)) (.next ((s.withPort r e).respond answer)) := by
  refine ⟨?_, nofun, nofun⟩
  rintro t ⟨⟩
  exact ⟨_, rfl, ⟨rfl, rfl, rfl, rfl, rfl, rfl⟩, rfl⟩

theorem sameOutcome_ite {p : Prop} [Decidable p] {a b a' b' : Host.Outcome State Fault Refusal}
    (ha : sameOutcome a a') (hb : sameOutcome b b') : sameOutcome (if p then a else b) (if p then a' else b') := by
  split
  · exact ha
  · exact hb

/-- A row that is no raw byte tests its operand against the configuration, and answers. -/
theorem exec_sameOutcome {i : Instr} (hi : isReceiveRow i = false) (s : State) (r : Result) (e : Option Event) :
    sameOutcome (exec i s) (exec i (s.withPort r e)) := by
  cases i with
  | feed | raw | preamble | preambleRecLittle | preambleRecBig | escaped | escmark | literal => cases hi
  | nop | encode | hck | crcUpd | crc32 | escEnc | escape | txEscMarker | txEscEsc | fieldFlags | fieldHck
    | fieldPayloadByte | fieldCrc32 | resNone | stOk => exact sameOutcome_next s r e _
  | txPlain => exact sameOutcome_ite (sameOutcome_refl _) (sameOutcome_next s r e _)
  | fieldPreamble | fieldLength | resFrameValid | resFrameDamaged | stLengthExceeded =>
    exact sameOutcome_ite (sameOutcome_next s r e _) (sameOutcome_refl _)
  | reservedOp | resReserved => exact sameOutcome_refl _

/-- Settles O38: a feed reads neither field; the other rows overwrite the one and hand the other through. -/
theorem portAndTraceAreNeverRead : Obligations.PortAndTraceAreNeverRead := by
  intro i s r e
  show sameOutcome (exec i s) (exec i (s.withPort r e))
  cases hi : isReceiveRow i with
  | true =>
    rw [exec_receive_set_port hi s r e]
    exact sameOutcome_refl _
  | false => exact exec_sameOutcome hi s r e

/-! ### Chunks and pauses -/

theorem framesOf_eq_some_iff {ds : List Byte} {s : State} {frames : List Frame} :
    framesOf ds s = some frames ↔ ∃ u, feedSeq ds s = .next (u, frames) := by
  unfold framesOf
  split
  · rename_i v fs h
    simp [h]
  · rename_i hno
    exact iff_of_false nofun fun ⟨u, hu⟩ => hno u frames hu

/-- Where the first chunk completes, the frames of the whole sequence are its frames and those of the rest. -/
theorem framesOf_append {a b : List Byte} {s u : State} {frames : List Frame}
    (h : feedSeq a s = .next (u, frames)) :
    framesOf (a ++ b) s = (framesOf b u).map (fun more => frames ++ more) := by
  ext whole
  simp only [framesOf_eq_some_iff, Option.map_eq_some_iff, feedSeq_append_next_iff, h,
    Host.Outcome.next.injEq, Prod.mk.injEq]
  constructor
  · rintro ⟨w, t, fs, gs, ⟨rfl, rfl⟩, hb, rfl⟩
    exact ⟨gs, ⟨w, hb⟩, rfl⟩
  · rintro ⟨gs, ⟨w, hb⟩, rfl⟩
    exact ⟨w, u, frames, gs, ⟨rfl, rfl⟩, hb, rfl⟩

/-- The frames do not depend on what the port and the trace name held before. -/
theorem framesOf_set_port (ds : List Byte) (s : State) (r : Result) (e : Option Event) :
    framesOf ds (s.withPort r e) = framesOf ds s := by
  cases ds with
  | nil => rfl
  | cons d ds => simp only [framesOf, feedSeq, feedByte_set_port]

/-- Settles O43: `NOP` writes the result port alone, which the feeds do not read. -/
theorem chunksAndPausesDoNotMatter : Obligations.ChunksAndPausesDoNotMatter := by
  intro a b s u p frames hseq hnop
  obtain rfl : u.withPort .nothing u.event = p := by simpa using hnop
  rw [framesOf_set_port b u]
  exact framesOf_append hseq

end Sys2Proof.Machine
end

section
/-! PROOF. The statements of 43_frame_encoder.md: the header bytes (R150), and what `ENCODE` returns (R151, R152). -/

namespace Sys2Proof.Machine

/-! ### The header -/

/-- Where both bytes of each field are equal the checksum cancels, and the byte order does not show. -/
theorem headerPack_of_equal_pairs {e : Endian} {flags n : Half} {b c : Byte} (hflags : pack16 e flags = [b, b])
    (hn : pack16 e n = [c, c]) : headerPack e flags n = [b, b, c, c, 0#8] := by
  have hbytes : pack16 e flags ++ pack16 e n = [b, b, c, c] := by rw [hflags, hn]; rfl
  rw [headerPack_of_bytes hbytes, headerChecksum_equal_pairs]

theorem pack16_zero (e : Endian) : pack16 e 0#16 = [0#8, 0#8] := by cases e <;> rfl

theorem pack16_ones (e : Endian) : pack16 e 0xFFFF#16 = [0xFF#8, 0xFF#8] := by cases e <;> rfl

theorem headerPack_zero (e : Endian) : headerPack e 0#16 0#16 = [0#8, 0#8, 0#8, 0#8, 0#8] :=
  headerPack_of_equal_pairs (pack16_zero e) (pack16_zero e)

/-- Settles O47: the five bytes are `headerPack_of_bytes`, the corner cases pairs of equal bytes. -/
theorem headerPackIsFlagsLengthAndChecksum : Obligations.HeaderPackIsFlagsLengthAndChecksum :=
  ⟨fun _ _ _ _ _ _ _ => headerPack_of_bytes,
    fun e => ⟨headerPack_zero e, headerPack_of_equal_pairs (pack16_ones e) (pack16_ones e)⟩,
    by decide, by decide, by decide, by decide⟩

/-! ### The two results of `ENCODE` -/

theorem encodeFrame_of_too_long {c : Cfg} {payload : List Byte} (flags : Half) (h : c.maxLen.toNat < payload.length) :
    encodeFrame c flags payload = .lengthExceeded payload.length := if_pos h

theorem encodeFrame_of_fits {c : Cfg} {payload : List Byte} (flags : Half) (h : payload.length ≤ c.maxLen.toNat) :
    encodeFrame c flags payload = .encoded (frameWire c flags payload) := encodeFrame_eq_encoded_iff.mpr ⟨h, rfl⟩

/-! ### Frames without a reserved content byte -/

theorem frameWire_of_not_reserved {c : Cfg} {flags : Half} {payload : List Byte}
    (h : ∀ b ∈ frameContent c.endian flags payload, b ≠ Config.marker ∧ b ≠ Config.esc) :
    frameWire c flags payload = pack32 c.endian c.preamble ++ frameContent c.endian flags payload := by
  rw [frameWire, escapeBytes_of_not_reserved h]

theorem pack32_zero (e : Endian) : pack32 e 0#32 = List.replicate 4 0x00#8 := by cases e <;> rfl

theorem frameChecksum_zeros (k : Nat) : frameChecksum (List.replicate k 0x00#8) = 0#32 := by
  simpa using crc32LeadingZerosAreInvisible k []

/-- The shortest frame: flags, length and both checksums are 0. -/
theorem frameContent_zero (e : Endian) : frameContent e 0#16 [] = List.replicate 9 0x00#8 := by
  have hheader : headerPack e 0#16 (BitVec.ofNat 16 0) = List.replicate 5 0x00#8 := headerPack_zero e
  rw [frameContent, List.length_nil, hheader, List.append_nil, frameChecksum_zeros, pack32_zero,
    List.replicate_append_replicate]

theorem frameWire_zero (c : Cfg) :
    frameWire c 0#16 [] = pack32 c.endian c.preamble ++ List.replicate 9 0x00#8 := by
  have hplain : ∀ b ∈ frameContent c.endian 0#16 [], b ≠ Config.marker ∧ b ≠ Config.esc := by
    rw [frameContent_zero]
    decide
  rw [frameWire_of_not_reserved hplain, frameContent_zero]

/-- Settles O48: `ENCODE` answers `encodeFrame` on the result port alone, which is `LengthExceeded` or `frameWire`; the
examples are `frameWire` evaluated. -/
theorem encodeGivesTheFrameOrLengthExceeded : Obligations.EncodeGivesTheFrameOrLengthExceeded := by
  have empty_fits (c : Cfg) : ([] : List Byte).length ≤ c.maxLen.toNat := Nat.zero_le _
  refine ⟨fun _ _ => rfl, fun c flags hplain => ?_, fun c => ?_, ⟨?_, ?_, ?_⟩, fun s flags payload =>
    ⟨fun hlong => ?_, fun hfits => ?_⟩⟩
  · rw [frameWire_of_not_reserved hplain, List.length_append, length_pack32, length_frameContent]
    rfl
  · rw [encodeFrame_of_fits 0#16 (empty_fits c), frameWire_zero]
  · exact encodeFrame_eq_encoded_iff.mpr ⟨empty_fits _, by decide⟩
  · exact encodeFrame_eq_encoded_iff.mpr ⟨by decide, by decide⟩
  · exact encodeFrame_eq_encoded_iff.mpr ⟨empty_fits _, by decide⟩
  · rw [exec_encode, encodeFrame_of_too_long flags hlong]
  · rw [exec_encode, encodeFrame_of_fits flags hfits]
    rfl

end Sys2Proof.Machine
end

section
/-! PROOF. The statements of 45_host_link.md: what `WRITE_FRAME` puts on the wire `READ_FRAME` reads back (R162 to R164), and
an end of stream changes nothing (R165, R168). The key fact is that `READ_FRAME` goes past bytes that return no frame as
`FEEDSEQ` does. -/

namespace Sys2Proof.Machine

/-! ### `WRITE_FRAME` -/

theorem writeFrame_of_too_long {s : State} {payload : List Byte} (hlong : s.cfg.maxLen.toNat < payload.length)
    (flags : Half) (answer : SinkAnswer) (sink : List Byte) :
    writeFrame flags payload answer sink s = .next
      { status := .lengthExceeded payload.length, sink := sink,
        block := s.respond (.lengthExceeded payload.length) } := by
  rcases writeFrame_cases flags payload answer sink s with ⟨-, h⟩ | ⟨hfits, -⟩ | ⟨hfits, -⟩
  · exact h
  · exact absurd hlong hfits.not_gt
  · exact absurd hlong hfits.not_gt

theorem writeFrame_delivers {s : State} {payload : List Byte} (hfits : payload.length ≤ s.cfg.maxLen.toNat)
    (flags : Half) (sink : List Byte) :
    writeFrame flags payload .delivers sink s = .next
      { status := .ok, sink := sink ++ frameWire s.cfg flags payload,
        block := s.respond (.encoded (frameWire s.cfg flags payload)) } := by
  rcases writeFrame_cases flags payload .delivers sink s with ⟨hlong, -⟩ | ⟨-, -, h⟩ | ⟨-, _, hanswer, -⟩
  · exact absurd hlong hfits.not_gt
  · exact h
  · cases hanswer

theorem writeFrame_fails {s : State} {payload : List Byte} (hfits : payload.length ≤ s.cfg.maxLen.toNat)
    (flags : Half) (after : Nat) (sink : List Byte) :
    writeFrame flags payload (.fails after) sink s = .next
      { status := .sinkFailed, sink := sink ++ (frameWire s.cfg flags payload).take after,
        block := s.respond (.encoded (frameWire s.cfg flags payload)) } := by
  rcases writeFrame_cases flags payload (.fails after) sink s with ⟨hlong, -⟩ | ⟨-, hanswer, -⟩ | ⟨-, _, hanswer, h⟩
  · exact absurd hlong hfits.not_gt
  · cases hanswer
  · cases hanswer
    exact h

/-- An answer goes to the result port alone. -/
theorem State.sameRegisters_respond (s : State) (r : Result) : s.sameRegisters (s.respond r) :=
  ⟨rfl, rfl, rfl, rfl, rfl, rfl⟩

/-! ### `READ_FRAME` and `FEEDSEQ` -/

/-- A feed answers nothing or a frame (R120). -/
theorem feedByte_result {d : Byte} {s t : State} (h : feedByte d s = .next t) :
    t.result = .feed none ∨ ∃ f, t.result = .feed (some f) := by
  obtain ⟨-, rfl⟩ := feedByte_next_iff.mp h
  obtain ⟨r, hr⟩ := feedStep_result d s
  cases r with
  | none => exact .inl hr
  | some f => exact .inr ⟨f, hr⟩

/-- `READ_FRAME` goes on past bytes that return no frame. -/
theorem readFrame_append_of_feedSeq {a : List Byte} {s t : State} (h : feedSeq a s = .next (t, [])) (b : List Byte) :
    readFrame (a ++ b) s = readFrame b t := by
  induction a generalizing s with
  | nil =>
    cases h
    rfl
  | cons d a ih =>
    obtain ⟨v, more, hv, hrest, hframes⟩ := feedSeq_cons_next_iff.mp h
    obtain ⟨hnone, rfl⟩ := List.append_eq_nil_iff.mp hframes.symm
    rcases feedByte_result hv with hresult | ⟨f, hresult⟩
    · exact (readFrame_cons_none hv hresult).trans (ih hrest)
    · simp [hresult] at hnone

/-- `READ_FRAME` runs out of bytes exactly when they are all fed and return no frame. -/
theorem readFrame_eq_none_iff {a : List Byte} {s u : State} :
    readFrame a s = .next { frame := none, source := [], block := u } ↔ feedSeq a s = .next (u, []) := by
  constructor
  · intro h
    induction a generalizing s with
    | nil =>
      cases h
      rfl
    | cons d a ih =>
      cases hv : feedByte d s with
      | fault x => simp [readFrame, execFeed, hv] at h
      | refused x => exact absurd hv feedByte_not_refused
      | next v =>
        rcases feedByte_result hv with hresult | ⟨f, hresult⟩
        · rw [readFrame_cons_none hv hresult] at h
          exact feedSeq_cons_next_iff.mpr ⟨v, [], hv, ih h, by simp [hresult]⟩
        · simp [readFrame_cons_some hv hresult] at h
  · intro h
    rw [← a.append_nil]
    exact readFrame_append_of_feedSeq h []

/-- A frame that comes on the last byte of `wire` is the one `READ_FRAME` gives, and it takes no byte more (R164). -/
theorem State.returnsOnLast.readFrame_eq {s : State} {wire : List Byte} {f : Frame} (h : s.returnsOnLast wire f)
    (rest : List Byte) :
    ∃ u, u.fresh ∧ readFrame (wire ++ rest) s = .next { frame := some f, source := rest, block := u } := by
  obtain ⟨u, v, hu, hv, hfresh, -, hresult⟩ := h
  have hne : wire ≠ [] := by
    rintro rfl
    cases hu
  obtain ⟨before, d, rfl⟩ : ∃ before d, wire = before ++ [d] := ⟨_, _, (List.dropLast_append_getLast hne).symm⟩
  rw [List.dropLast_concat] at hv
  obtain ⟨t, fs, gs, ht, hlast, -⟩ := feedSeq_append_next_iff.mp hu
  obtain ⟨rfl, -⟩ : v = t ∧ [] = fs := by simpa [hv] using ht
  have hd := feedSeq_singleton_next_iff.mp ⟨gs, hlast⟩
  refine ⟨u, hfresh, ?_⟩
  rw [List.append_assoc, readFrame_append_of_feedSeq hv]
  exact readFrame_cons_some hd hresult

/-- Settles O58: the wire is `frameWire`, which a fresh receiver returns as the frame on its last byte (R142). -/
theorem readFrameGivesWhatWriteFrameWrote : Obligations.ReadFrameGivesWhatWriteFrameWrote := by
  intro s flags payload sink
  refine ⟨fun hfits => ?_, fun hlong => ?_⟩
  · refine ⟨frameWire s.cfg flags payload, s.respond (.encoded (frameWire s.cfg flags payload)),
      s.sameRegisters_respond _, rfl, rfl, writeFrame_delivers hfits flags sink,
      fun after => writeFrame_fails hfits flags after sink, fun r hr hcfg rest => ?_⟩
    have hwire := returnsOnLast_garbage_frameWire (garbage := []) flags hr.seeks (hcfg ▸ hfits)
      (by rw [hr.window_eq]; exact nofun)
    rw [List.nil_append, hcfg] at hwire
    exact hwire.readFrame_eq rest
  · exact ⟨s.respond (.lengthExceeded payload.length), s.sameRegisters_respond _, rfl,
      fun answer => writeFrame_of_too_long hlong flags answer sink⟩

/-- Settles O59: a `READ_FRAME` that ran out of bytes fed them all, and a later one goes on from there. -/
theorem endOfStreamChangesNothing : Obligations.EndOfStreamChangesNothing :=
  ⟨fun _ => rfl, fun _ b _ _ h => readFrame_append_of_feedSeq (readFrame_eq_none_iff.mp h) b⟩

end Sys2Proof.Machine
end

section
/-! PROOF. The statements of 70_reset_and_hazards.md: a receiver put back to seeking acts as a freshly reset one (R201), the
configuration is frozen (R204), and escaped content cannot imitate the preamble (R212). -/

namespace Sys2Proof.Machine

/-! ### The configuration is frozen -/

theorem feedStep_cfg (d : Byte) (s : State) : (feedStep d s).cfg = s.cfg := by
  obtain ⟨hcfg, -⟩ := feedStep_same d s
  exact hcfg

theorem feedSeq_cfg {ds : List Byte} {s t : State} {frames : List Frame} (h : feedSeq ds s = .next (t, frames)) :
    t.cfg = s.cfg := by
  induction ds generalizing s frames with
  | nil =>
    cases h
    rfl
  | cons d ds ih =>
    obtain ⟨v, more, hfeed, hrest, -⟩ := feedSeq_cons_next_iff.mp h
    obtain ⟨-, rfl⟩ := feedByte_next_iff.mp hfeed
    exact (ih hrest).trans (feedStep_cfg d s)

/-- A row that is raw bytes feeds, and any other row writes the result port alone. -/
theorem exec_cfg {i : Instr} {s t : State} (h : exec i s = .next t) : t.cfg = s.cfg := by
  cases hi : isReceiveRow i with
  | true =>
    obtain ⟨ds, frames, hfeeds⟩ := exec_receive_feedSeq hi h
    exact feedSeq_cfg hfeeds
  | false =>
    obtain ⟨r, rfl⟩ := exec_answersOnly s hi t h
    rfl

/-- Settles O34: a step runs one row, which `exec_cfg` speaks of. -/
theorem configurationNeverChanges : Obligations.ConfigurationNeverChanges := by
  refine ⟨fun _ _ _ => exec_cfg, fun s t h => ?_⟩
  obtain ⟨i, rest, hexec⟩ := step_next_exec h
  exact exec_cfg (s := s.queued rest) hexec

/-! ### A receiver put back to seeking -/

/-- A feed takes a reading receiver back to seeking only where it completes a header (R131) or a body (R137), and the window
is then empty. -/
theorem feedStep_resync {d : Byte} {s : State} (hst : s.state ≠ .seekingPreamble)
    (hback : (feedStep d s).state = .seekingPreamble) :
    ¬(s.unescaping = false ∧ d = Config.esc) ∧ (s.state = .readingHeader → s.cursor + 1 = 5) ∧
    (s.state = .readingBody → s.cursor + 1 = 5 + (s.counted d).rxLength + 4) ∧ (feedStep d s).cursor = 0 := by
  cases hstage : s.state with
  | seekingPreamble => exact absurd hstage hst
  | readingHeader =>
    rw [feedStep_header hstage] at hback ⊢
    rcases headerStep_cases d s with ⟨-, -, h⟩ | ⟨-, -, h⟩ | ⟨hd, h4, h⟩ <;> rw [h] at hback
    · exact absurd hback hst
    · exact absurd hback hst
    · rw [h]
      refine ⟨hd, fun _ => congrArg (· + 1) h4, nofun, ?_⟩
      rcases headerDone_cases (s.counted d) with ⟨-, -, hdone⟩ | ⟨-, -, hdone⟩ | ⟨-, hdone⟩ <;> rw [hdone] at hback ⊢
      cases hback
  | readingBody =>
    rw [feedStep_body hstage] at hback ⊢
    rcases bodyStep_cases d s with ⟨-, -, h⟩ | ⟨-, -, h⟩ | ⟨hd, hend, h⟩ <;> rw [h] at hback
    · exact absurd hback hst
    · exact absurd hback hst
    · rw [h]
      exact ⟨hd, nofun, fun _ => hend, rfl⟩

/-- The declared length is below `cursor` in the body stage, so that the store of a feed leaves it. -/
theorem State.Inv.rxLength_counted {s : State} (hs : s.Inv) (hst : s.state = .readingBody) (d : Byte) :
    (s.counted d).rxLength = s.rxLength := by
  obtain ⟨-, -, -, -, hbody, -⟩ := hs
  obtain ⟨-, -, hlow, -⟩ := hbody hst
  exact (s.agreeBelow_counted d).rxLength_eq (by omega)

/-! ### Later results of a fresh receiver -/

theorem feedSeq_queued {ds : List Byte} {s u : State} {frames : List Frame} (h : feedSeq ds s = .next (u, frames))
    (q : List Transaction) : feedSeq ds (s.queued q) = .next (u.queued q, frames) := by
  induction ds generalizing s frames with
  | nil =>
    cases h
    rfl
  | cons d ds ih =>
    obtain ⟨t, more, hfeed, hrest, rfl⟩ := feedSeq_cons_next_iff.mp h
    exact feedSeq_cons_next_iff.mpr ⟨t.queued q, more, feedByte_queued hfeed q, ih hrest, rfl⟩

/-- The frames do not depend on the host's pending transactions; to queue the old ones again gives `s` back. -/
theorem framesOf_queued (ds : List Byte) (s : State) (q : List Transaction) :
    framesOf ds (s.queued q) = framesOf ds s := by
  ext frames
  simp only [framesOf_eq_some_iff]
  constructor
  · rintro ⟨u, hu⟩
    exact ⟨_, feedSeq_queued hu s.input⟩
  · rintro ⟨u, hu⟩
    exact ⟨_, feedSeq_queued hu q⟩

/-- A fresh receiver has no live byte, so that it yields the frames of a reset one. -/
theorem framesOf_of_fresh {s : State} (hs : s.Inv) (hfresh : s.fresh) (bytes : List Byte) :
    ∃ frames, framesOf bytes s = some frames ∧ framesOf bytes (State.resetWith s.cfg) = some frames := by
  obtain ⟨hst, hcursor, hu⟩ := hfresh
  have hlive : (s.queued []).sameLive (State.resetWith s.cfg) :=
    ⟨hst.symm, hcursor.symm, hu.symm, rfl, rfl, fun a ha => absurd ha (by simp [hcursor])⟩
  obtain ⟨frames, hleft, hreset⟩ := framesOf_sameLive bytes (s := s.queued []) hs hlive
  exact ⟨frames, framesOf_queued bytes s [] ▸ hleft, hreset⟩

/-- Settles O42: the feed completes a stage (`feedStep_resync`) and leaves a fresh receiver within the invariants. -/
theorem resynchronisedReceiverActsAsReset : Obligations.ResynchronisedReceiverActsAsReset := by
  intro s t d hs hst hexec hback
  obtain ⟨-, rfl⟩ := feedByte_next_iff.mp hexec
  obtain ⟨hd, hheader, hbody, hcursor⟩ := feedStep_resync hst hback
  obtain ⟨hu, hbuf, -⟩ := feedStep_logical hst hd
  have hfresh : (feedStep d s).fresh := ⟨hback, hcursor, hu⟩
  have hend : s.state = .readingBody → s.cursor + 1 = 5 + s.rxLength + 4 :=
    fun hstage => hs.rxLength_counted hstage d ▸ hbody hstage
  refine ⟨hd, hheader, hend, hfresh, feedStep_cfg d s, State.storedOnly_of_buf hbuf, fun bytes => ?_⟩
  rw [← feedStep_cfg d s]
  exact framesOf_of_fresh (feedStep_inv d hs) hfresh bytes

/-! ### Windows of escaped content -/

/-- In a window of such a sequence too, a `MARKER` that is not the first byte has `ESC` right before it. -/
theorem markersFollowEsc.window {s : List Byte} (hs : markersFollowEsc s) {k n i : Nat} (hi : 1 ≤ i)
    (hmarker : ((s.drop k).take n)[i]? = some Config.marker) : ((s.drop k).take n)[i - 1]? = some Config.esc := by
  obtain ⟨hbound, -⟩ := List.getElem?_eq_some_iff.mp hmarker
  have hin : i < n := hbound.trans_le (List.length_take_le ..)
  rw [List.getElem?_take_of_lt hin, List.getElem?_drop] at hmarker
  rw [List.getElem?_take_of_lt (by omega), List.getElem?_drop, ← Nat.add_sub_assoc hi]
  obtain ⟨-, hesc⟩ := hs _ hmarker
  exact hesc

/-- Settles O53: a window equal to the image would have `ESC` before the image's `MARKER`. -/
theorem escapedContentCannotImitateThePreamble : Obligations.EscapedContentCannotImitateThePreamble := by
  refine ⟨fun e p i hi _ hmarker hnoEsc content k himage => ?_, by decide, by decide, by decide, by decide, by decide⟩
  rw [← himage] at hmarker hnoEsc
  exact hnoEsc ((markersFollowEsc_escapeBytes content).window hi hmarker)

end Sys2Proof.Machine
end
